-- ==== Sys2Proof/Word.lean ====
section
/-! DEFINITION. The widths of the machine's values: bytes, 16-bit words, 12-bit addresses, nibbles and register numbers
(spec 00_scope.md R5, R7, R8). -/

namespace Sys2Proof

/-- An 8-bit value: a memory byte, a V register, a timer, `KK` (R5). -/
abbrev Byte := BitVec 8

/-- A 16-bit value: an opcode, PC, I, a stack entry (R5). -/
abbrev Word := BitVec 16

/-- A 12-bit value: an address of the 4096-byte memory, and the field `NNN` (R5, R30, R46). -/
abbrev Addr := BitVec 12

/-- A 4-bit value: a field of an opcode, and SP (R7, R19). -/
abbrev Nibble := BitVec 4

/-- The number of one of the sixteen registers V0 to VF; key numbers have the same range (R14, R22). -/
abbrev Reg := Fin 16

/-- VF, the register that doubles as the flag (R15). -/
abbrev vf : Reg := 15

end Sys2Proof
end

