-- ==== Sys2Proof/Syntax.lean ====
section
/-! DEFINITION. The instructions: one constructor for each row of spec/opcode_table.json (30_encoding.md R47), in the table's
order, with the operands of R45 and R46. -/

namespace Sys2Proof

/-- The 34 baseline instructions (R47). `x` and `y` are register numbers, `kk` an 8-bit immediate, `nnn` a 12-bit
address, `n` a sprite height. -/
inductive Instr where
  /-- `CLS`, 00E0 (R92). -/
  | cls
  /-- `RET`, 00EE (R63). -/
  | ret
  /-- `JP NNN`, 1NNN (R64). -/
  | jp (nnn : Addr)
  /-- `CALL NNN`, 2NNN (R65). -/
  | call (nnn : Addr)
  /-- `SE Vx, KK`, 3XKK (R67). -/
  | seImm (x : Reg) (kk : Byte)
  /-- `SNE Vx, KK`, 4XKK (R68). -/
  | sneImm (x : Reg) (kk : Byte)
  /-- `SE Vx, Vy`, 5XY0 (R69). -/
  | seReg (x y : Reg)
  /-- `LD Vx, KK`, 6XKK (R72). -/
  | ldImm (x : Reg) (kk : Byte)
  /-- `ADD Vx, KK`, 7XKK (R73). -/
  | addImm (x : Reg) (kk : Byte)
  /-- `LD Vx, Vy`, 8XY0 (R74). -/
  | ldReg (x y : Reg)
  /-- `OR Vx, Vy`, 8XY1 (R75). -/
  | orReg (x y : Reg)
  /-- `AND Vx, Vy`, 8XY2 (R76). -/
  | andReg (x y : Reg)
  /-- `XOR Vx, Vy`, 8XY3 (R77). -/
  | xorReg (x y : Reg)
  /-- `ADD Vx, Vy`, 8XY4 (R78). -/
  | addReg (x y : Reg)
  /-- `SUB Vx, Vy`, 8XY5 (R79). -/
  | sub (x y : Reg)
  /-- `SHR Vx, Vy`, 8XY6 (R82). The second register is always encoded, whatever `SHIFT_SOURCE` is (R52). -/
  | shr (x y : Reg)
  /-- `SUBN Vx, Vy`, 8XY7 (R80). -/
  | subn (x y : Reg)
  /-- `SHL Vx, Vy`, 8XYE (R83). The second register is always encoded (R52). -/
  | shl (x y : Reg)
  /-- `SNE Vx, Vy`, 9XY0 (R70). -/
  | sneReg (x y : Reg)
  /-- `LD I, NNN`, ANNN (R85). -/
  | ldI (nnn : Addr)
  /-- `JP V0, NNN`, BNNN (R66). -/
  | jpV0 (nnn : Addr)
  /-- `RND Vx, KK`, CXKK (R91). -/
  | rnd (x : Reg) (kk : Byte)
  /-- `DRW Vx, Vy, N`, DXYN (R93). The height is a count; WellFormed bounds it by its 4-bit field (R46). -/
  | drw (x y : Reg) (n : Nat)
  /-- `SKP Vx`, EX9E (R94). -/
  | skp (x : Reg)
  /-- `SKNP Vx`, EXA1 (R95). -/
  | sknp (x : Reg)
  /-- `LD Vx, DT`, FX07 (R97). -/
  | ldVxDt (x : Reg)
  /-- `LD Vx, K`, FX0A (R96). -/
  | ldK (x : Reg)
  /-- `LD DT, Vx`, FX15 (R98). -/
  | ldDt (x : Reg)
  /-- `LD ST, Vx`, FX18 (R99). -/
  | ldSt (x : Reg)
  /-- `ADD I, Vx`, FX1E (R86). -/
  | addI (x : Reg)
  /-- `LD F, Vx`, FX29 (R87). -/
  | ldF (x : Reg)
  /-- `LD B, Vx`, FX33 (R88). -/
  | bcd (x : Reg)
  /-- `LD [I], Vx`, FX55 (R89). -/
  | stRegs (x : Reg)
  /-- `LD Vx, [I]`, FX65 (R90). -/
  | ldRegs (x : Reg)
  deriving DecidableEq, Repr

/-- Why bytes are no instruction (30_encoding.md R49; 40_cycle.md R58). -/
inductive DecodeError where
  /-- The opcode matches no row of R47. The machine takes the UndecodableOpcode fault on it (R101). -/
  | undecodableOpcode (op : Word)
  /-- Fewer than two bytes were given to the decoder: it always consumes exactly two (R44). -/
  | tooFewBytes
  deriving DecidableEq, Repr

/-- One row of spec/opcode_table.json: an opcode is the row's when its bits under `mask` equal `pattern`. -/
structure OpcodeRow where
  mnemonic : String
  pattern : Word
  mask : Word
  deriving DecidableEq, Repr

end Sys2Proof
end

