-- ==== Sys2Proof/WellFormed.lean ====
section
/-! DEFINITION. Which instruction terms an opcode can hold. Registers, addresses and immediates have the width of their
fields by type; the sprite height is a count, and `DXYN` gives it four bits (30_encoding.md R45, R46). -/

namespace Sys2Proof

/-- The operands fit the instruction's fields. `DRW` with height 0 is well formed: it decodes (R50). -/
def Instr.wellFormed : Instr → Bool
  | .drw _ _ n => decide (n < 16)
  | .cls | .ret | .jp _ | .call _ | .seImm _ _ | .sneImm _ _ | .seReg _ _ | .ldImm _ _ | .addImm _ _ | .ldReg _ _
  | .orReg _ _ | .andReg _ _ | .xorReg _ _ | .addReg _ _ | .sub _ _ | .shr _ _ | .subn _ _ | .shl _ _ | .sneReg _ _
  | .ldI _ | .jpV0 _ | .rnd _ _ | .skp _ | .sknp _ | .ldVxDt _ | .ldK _ | .ldDt _ | .ldSt _ | .addI _ | .ldF _
  | .bcd _ | .stRegs _ | .ldRegs _ => true

/-- `wellFormed` as a proposition. -/
abbrev Instr.WellFormed (i : Instr) : Prop := i.wellFormed = true

end Sys2Proof
end

