-- ==== Sys2Proof/Decode.lean ====
section
/-! DEFINITION. The decoder and the encoder (30_encoding.md R44 to R49), the opcode table as rows of pattern and mask, and the
table-word entry point of the host. -/

namespace Sys2Proof

/-- The field `G`, `op[15:12]` (R45). -/
def opGroup (op : Word) : Nibble := op.extractLsb' 12 4

/-- The field `X`, `op[11:8]` (R45). -/
def opX (op : Word) : Reg := (op.extractLsb' 8 4).toFin

/-- The field `Y`, `op[7:4]` (R45). -/
def opY (op : Word) : Reg := (op.extractLsb' 4 4).toFin

/-- The field `N`, `op[3:0]` (R45). -/
def opN (op : Word) : Nibble := op.extractLsb' 0 4

/-- The field `KK`, `op[7:0]` (R45). -/
def opKK (op : Word) : Byte := op.extractLsb' 0 8

/-- The field `NNN`, `op[11:0]` (R45). -/
def opNNN (op : Word) : Addr := op.extractLsb' 0 12

/-- Group 0: `CLS` and `RET`, whole opcodes (R47, R49). -/
def decodeGroup0 (op : Word) : Except DecodeError Instr :=
  if op = 0x00E0#16 then .ok .cls
  else if op = 0x00EE#16 then .ok .ret
  else .error (.undecodableOpcode op)

/-- Groups 5 and 9: one instruction, with the nibble `N` zero (R47, R49). -/
def decodeXY0 (op : Word) (i : Reg → Reg → Instr) : Except DecodeError Instr :=
  if opN op = 0 then .ok (i (opX op) (opY op)) else .error (.undecodableOpcode op)

/-- Group 8: the nibble `N` is the sub-opcode (R47, R49). -/
def decodeGroup8 (op : Word) : Except DecodeError Instr :=
  match (opN op).toNat with
  | 0x0 => .ok (.ldReg (opX op) (opY op))
  | 0x1 => .ok (.orReg (opX op) (opY op))
  | 0x2 => .ok (.andReg (opX op) (opY op))
  | 0x3 => .ok (.xorReg (opX op) (opY op))
  | 0x4 => .ok (.addReg (opX op) (opY op))
  | 0x5 => .ok (.sub (opX op) (opY op))
  | 0x6 => .ok (.shr (opX op) (opY op))
  | 0x7 => .ok (.subn (opX op) (opY op))
  | 0xE => .ok (.shl (opX op) (opY op))
  | _ => .error (.undecodableOpcode op)

/-- Group E: the byte `KK` is the sub-opcode (R47, R49). -/
def decodeGroupE (op : Word) : Except DecodeError Instr :=
  match (opKK op).toNat with
  | 0x9E => .ok (.skp (opX op))
  | 0xA1 => .ok (.sknp (opX op))
  | _ => .error (.undecodableOpcode op)

/-- Group F: the byte `KK` is the sub-opcode (R47, R49). -/
def decodeGroupF (op : Word) : Except DecodeError Instr :=
  match (opKK op).toNat with
  | 0x07 => .ok (.ldVxDt (opX op))
  | 0x0A => .ok (.ldK (opX op))
  | 0x15 => .ok (.ldDt (opX op))
  | 0x18 => .ok (.ldSt (opX op))
  | 0x1E => .ok (.addI (opX op))
  | 0x29 => .ok (.ldF (opX op))
  | 0x33 => .ok (.bcd (opX op))
  | 0x55 => .ok (.stRegs (opX op))
  | 0x65 => .ok (.ldRegs (opX op))
  | _ => .error (.undecodableOpcode op)

/-- `decode(op)`: total on 16-bit values; it dispatches on the group, then on the sub-field (R47). A value that matches
no row is rejected by name (R49). -/
def decode (op : Word) : Except DecodeError Instr :=
  match (opGroup op).toNat with
  | 0x0 => decodeGroup0 op
  | 0x1 => .ok (.jp (opNNN op))
  | 0x2 => .ok (.call (opNNN op))
  | 0x3 => .ok (.seImm (opX op) (opKK op))
  | 0x4 => .ok (.sneImm (opX op) (opKK op))
  | 0x5 => decodeXY0 op .seReg
  | 0x6 => .ok (.ldImm (opX op) (opKK op))
  | 0x7 => .ok (.addImm (opX op) (opKK op))
  | 0x8 => decodeGroup8 op
  | 0x9 => decodeXY0 op .sneReg
  | 0xA => .ok (.ldI (opNNN op))
  | 0xB => .ok (.jpV0 (opNNN op))
  | 0xC => .ok (.rnd (opX op) (opKK op))
  | 0xD => .ok (.drw (opX op) (opY op) (opN op).toNat)
  | 0xE => decodeGroupE op
  | _ => decodeGroupF op

/-- The opcode two consecutive bytes form: big-endian, the first byte is the high one (20_memory.md R32). -/
def wordOfBytes (hi lo : Byte) : Word := hi.setWidth 16 <<< 8 ||| lo.setWidth 16

/-- The high byte of an opcode, which stands at the lower address (R32). -/
def highByte (op : Word) : Byte := op.extractLsb' 8 8

/-- The low byte of an opcode (R32). -/
def lowByte (op : Word) : Byte := op.extractLsb' 0 8

/-- The decoder on bytes: it consumes exactly two (R44) and answers the instruction and the bytes after it. -/
def decodeBytes : List Byte → Except DecodeError (Instr × List Byte)
  | hi :: lo :: rest =>
    match decode (wordOfBytes hi lo) with
    | .ok i => .ok (i, rest)
    | .error e => .error e
  | [] | [_] => .error .tooFewBytes

/-- An opcode with the fields of format NNN at their places (R45). -/
def wordNNN (g : Nibble) (nnn : Addr) : Word := g.setWidth 16 <<< 12 ||| nnn.setWidth 16

/-- An opcode with the fields of format XKK at their places (R45). -/
def wordXKK (g : Nibble) (x : Reg) (kk : Byte) : Word :=
  g.setWidth 16 <<< 12 ||| (BitVec.ofFin x : Nibble).setWidth 16 <<< 8 ||| kk.setWidth 16

/-- An opcode with the fields of format XYN at their places (R45). -/
def wordXYN (g : Nibble) (x y : Reg) (n : Nibble) : Word :=
  g.setWidth 16 <<< 12 ||| (BitVec.ofFin x : Nibble).setWidth 16 <<< 8 |||
    (BitVec.ofFin y : Nibble).setWidth 16 <<< 4 ||| n.setWidth 16

/-- The opcode of a well-formed instruction, from the patterns of R47. -/
def encode : Instr → Word
  | .cls => 0x00E0
  | .ret => 0x00EE
  | .jp nnn => wordNNN 0x1 nnn
  | .call nnn => wordNNN 0x2 nnn
  | .seImm x kk => wordXKK 0x3 x kk
  | .sneImm x kk => wordXKK 0x4 x kk
  | .seReg x y => wordXYN 0x5 x y 0x0
  | .ldImm x kk => wordXKK 0x6 x kk
  | .addImm x kk => wordXKK 0x7 x kk
  | .ldReg x y => wordXYN 0x8 x y 0x0
  | .orReg x y => wordXYN 0x8 x y 0x1
  | .andReg x y => wordXYN 0x8 x y 0x2
  | .xorReg x y => wordXYN 0x8 x y 0x3
  | .addReg x y => wordXYN 0x8 x y 0x4
  | .sub x y => wordXYN 0x8 x y 0x5
  | .shr x y => wordXYN 0x8 x y 0x6
  | .subn x y => wordXYN 0x8 x y 0x7
  | .shl x y => wordXYN 0x8 x y 0xE
  | .sneReg x y => wordXYN 0x9 x y 0x0
  | .ldI nnn => wordNNN 0xA nnn
  | .jpV0 nnn => wordNNN 0xB nnn
  | .rnd x kk => wordXKK 0xC x kk
  | .drw x y n => wordXYN 0xD x y (BitVec.ofNat 4 n)
  | .skp x => wordXKK 0xE x 0x9E
  | .sknp x => wordXKK 0xE x 0xA1
  | .ldVxDt x => wordXKK 0xF x 0x07
  | .ldK x => wordXKK 0xF x 0x0A
  | .ldDt x => wordXKK 0xF x 0x15
  | .ldSt x => wordXKK 0xF x 0x18
  | .addI x => wordXKK 0xF x 0x1E
  | .ldF x => wordXKK 0xF x 0x29
  | .bcd x => wordXKK 0xF x 0x33
  | .stRegs x => wordXKK 0xF x 0x55
  | .ldRegs x => wordXKK 0xF x 0x65

/-- The two bytes of an instruction in memory order (R32). -/
def encodeBytes (i : Instr) : List Byte := [highByte (encode i), lowByte (encode i)]

/-- spec/opcode_table.json, groups 0 to 7: mnemonic, match, mask. -/
def opcodeRowsLow : List OpcodeRow :=
  [⟨"CLS", 0x00E0, 0xFFFF⟩, ⟨"RET", 0x00EE, 0xFFFF⟩, ⟨"JP", 0x1000, 0xF000⟩, ⟨"CALL", 0x2000, 0xF000⟩,
   ⟨"SE_IMM", 0x3000, 0xF000⟩, ⟨"SNE_IMM", 0x4000, 0xF000⟩, ⟨"SE_REG", 0x5000, 0xF00F⟩,
   ⟨"LD_IMM", 0x6000, 0xF000⟩, ⟨"ADD_IMM", 0x7000, 0xF000⟩]

/-- spec/opcode_table.json, groups 8 to D. -/
def opcodeRowsMid : List OpcodeRow :=
  [⟨"LD_REG", 0x8000, 0xF00F⟩, ⟨"OR", 0x8001, 0xF00F⟩, ⟨"AND", 0x8002, 0xF00F⟩, ⟨"XOR", 0x8003, 0xF00F⟩,
   ⟨"ADD_REG", 0x8004, 0xF00F⟩, ⟨"SUB", 0x8005, 0xF00F⟩, ⟨"SHR", 0x8006, 0xF00F⟩, ⟨"SUBN", 0x8007, 0xF00F⟩,
   ⟨"SHL", 0x800E, 0xF00F⟩, ⟨"SNE_REG", 0x9000, 0xF00F⟩, ⟨"LD_I", 0xA000, 0xF000⟩, ⟨"JP_V0", 0xB000, 0xF000⟩,
   ⟨"RND", 0xC000, 0xF000⟩, ⟨"DRW", 0xD000, 0xF000⟩]

/-- spec/opcode_table.json, groups E and F. -/
def opcodeRowsHigh : List OpcodeRow :=
  [⟨"SKP", 0xE09E, 0xF0FF⟩, ⟨"SKNP", 0xE0A1, 0xF0FF⟩, ⟨"LD_VX_DT", 0xF007, 0xF0FF⟩, ⟨"LD_K", 0xF00A, 0xF0FF⟩,
   ⟨"LD_DT", 0xF015, 0xF0FF⟩, ⟨"LD_ST", 0xF018, 0xF0FF⟩, ⟨"ADD_I", 0xF01E, 0xF0FF⟩, ⟨"LD_F", 0xF029, 0xF0FF⟩,
   ⟨"BCD", 0xF033, 0xF0FF⟩, ⟨"ST_REGS", 0xF055, 0xF0FF⟩, ⟨"LD_REGS", 0xF065, 0xF0FF⟩]

/-- The 34 rows of spec/opcode_table.json, in its order. The decoder does not read them: they are the second
transcription of the table that statements hold the decoder against (R47). -/
def opcodeRows : List OpcodeRow := opcodeRowsLow ++ opcodeRowsMid ++ opcodeRowsHigh

/-- The opcode is the row's: its bits under the mask are the row's pattern. -/
def OpcodeRow.accepts (row : OpcodeRow) (op : Word) : Bool := op &&& row.mask == row.pattern

/-- The row of the table an instruction belongs to, by its mnemonic there. -/
def Instr.mnemonic : Instr → String
  | .cls => "CLS"
  | .ret => "RET"
  | .jp _ => "JP"
  | .call _ => "CALL"
  | .seImm _ _ => "SE_IMM"
  | .sneImm _ _ => "SNE_IMM"
  | .seReg _ _ => "SE_REG"
  | .ldImm _ _ => "LD_IMM"
  | .addImm _ _ => "ADD_IMM"
  | .ldReg _ _ => "LD_REG"
  | .orReg _ _ => "OR"
  | .andReg _ _ => "AND"
  | .xorReg _ _ => "XOR"
  | .addReg _ _ => "ADD_REG"
  | .sub _ _ => "SUB"
  | .shr _ _ => "SHR"
  | .subn _ _ => "SUBN"
  | .shl _ _ => "SHL"
  | .sneReg _ _ => "SNE_REG"
  | .ldI _ => "LD_I"
  | .jpV0 _ => "JP_V0"
  | .rnd _ _ => "RND"
  | .drw _ _ _ => "DRW"
  | .skp _ => "SKP"
  | .sknp _ => "SKNP"
  | .ldVxDt _ => "LD_VX_DT"
  | .ldK _ => "LD_K"
  | .ldDt _ => "LD_DT"
  | .ldSt _ => "LD_ST"
  | .addI _ => "ADD_I"
  | .ldF _ => "LD_F"
  | .bcd _ => "BCD"
  | .stRegs _ => "ST_REGS"
  | .ldRegs _ => "LD_REGS"

/-- The opcode the host's table numbering means: `nbits` bits of `w`, the bits above them zero. -/
def tableWord (nbits w : Nat) : Word := BitVec.ofNat 16 (w % 2 ^ nbits)

/-- The instruction the decoder reads from a table word, laid out in memory order (R32). -/
def decodeTableWord (nbits w : Nat) : Option Instr :=
  match decodeBytes [highByte (tableWord nbits w), lowByte (tableWord nbits w)] with
  | .ok (i, _) => some i
  | .error _ => none

end Sys2Proof
end

