-- ==== Sys2Proof/Config.lean ====
section
/-! DEFINITION. What the spec leaves open as parameters (spec 00_scope.md R6): the argument record a model takes, and the
uninterpreted constants that stand for it at reset. Nothing in Lean can evaluate one of the opaque constants, so a
claim about one holds for every value. -/

namespace Sys2Proof

/-- The register `8XY6` and `8XYE` shift (42_alu.md R81, D37: OPEN). -/
inductive ShiftSource where
  | vx
  | vy
  deriving DecidableEq, Repr, Inhabited

/-- The glyph table, 80 bytes: 16 glyphs of 5 bytes, top row first (R5, 10_state.md R29). -/
abbrev Font := Vector Byte 80

/-- The open parameters of R6 that a model takes as arguments. No operation of the machine writes them. -/
structure Params where
  /-- `ST_RESET`: the value reset writes to ST (D35: OPEN). -/
  stReset : Byte
  /-- `CUE_THRESHOLD`: the value ST crosses when the Normal cue fires (D36: OPEN). -/
  cueThreshold : Byte
  /-- `SHIFT_SOURCE`: the register the shifts read (D37: OPEN). -/
  shiftSource : ShiftSource
  /-- `FONT`: the bytes of `0x000` to `0x04F` (D30: OPEN, with a default). -/
  font : Font
  deriving DecidableEq, Repr

/-- `ST_RESET` of the machine that `State.reset` describes. Free value, log entry 2; safe. -/
opaque Config.stReset : Byte

/-- `CUE_THRESHOLD` of the machine that `State.reset` describes. Free value, log entry 2; safe. -/
opaque Config.cueThreshold : Byte

/-- `SHIFT_SOURCE` of the machine that `State.reset` describes. Free value, log entry 2; safe. -/
opaque Config.shiftSource : ShiftSource

/-- The draw a `CXKK` receives when the host has injected none, by the number of such draws before it (44_random.md
R91: "No distribution is assumed"). Free value, log entry 3; safe. -/
opaque Config.freeDraw : Nat → Byte

end Sys2Proof
end

