-- ==== Sys2Proof/Machine/Memory.lean ====
section
/-! DEFINITION. The one memory of 4096 bytes (20_memory.md R30): sparse cells in one canonical form over the reset contents
(10_state.md R28), with byte reads and byte writes. -/

namespace Sys2Proof.Machine

/-- What an address holds after reset: `FONT` below `0x050`, zero above it (R28). It is also what an address that the
memory does not list reads as. -/
def resetByte (font : Font) (a : Nat) : Byte := if h : a < 0x050 then font[a] else 0

/-- The memory: the bytes that differ from the reset contents, which depend on the parameter `FONT`. -/
abbrev Memory := List Host.Cell

/-- The byte at an address. -/
def lookupByte (font : Font) : Memory → Nat → Byte
  | [], a => resetByte font a
  | (k, v) :: m, a => if a = k then v else lookupByte font m a

/-- The memory with one byte replaced, in canonical form: writing an address's reset contents removes its cell. -/
def insertByte (font : Font) : Memory → Nat → Byte → Memory
  | [], a, b => if b = resetByte font a then [] else [(a, b)]
  | (k, v) :: m, a, b =>
    if a < k then (if b = resetByte font a then (k, v) :: m else (a, b) :: (k, v) :: m)
    else if a = k then (if b = resetByte font a then m else (a, b) :: m)
    else (k, v) :: insertByte font m a b

/-- Cells at strictly rising addresses from `lo` up, inside the address space, none equal to the reset contents. -/
def canonicalFrom (font : Font) : Nat → Memory → Bool
  | _, [] => true
  | lo, (k, v) :: m => decide (lo ≤ k) && decide (k < 4096) && decide (v ≠ resetByte font k) && canonicalFrom font (k + 1) m

/-- The canonical form of a memory. -/
def Memory.wf (m : Memory) (font : Font) : Bool := canonicalFrom font 0 m

/-- `MemRead(a, 1)`: the byte at an address (00_scope.md R10). Every address of the space is readable (R37). -/
def Memory.read (m : Memory) (font : Font) (a : Addr) : Byte := lookupByte font m a.toNat

/-- `MemWrite(a, 1, v)`: the memory with byte `b` at `a` (R10). -/
def Memory.write (m : Memory) (font : Font) (a : Addr) (b : Byte) : Memory := insertByte font m a.toNat b

end Sys2Proof.Machine
end

