-- ==== Sys2Proof/Machine/ResetValues.lean ====
section
/-! DEFINITION. The values reset gives the registers, each by name (10_state.md R28). -/

namespace Sys2Proof.Machine

/-- `PROG_BASE`: where programs are loaded and where PC starts (00_scope.md R5, R28). -/
def progBase : Word := 0x200

/-- `PROG_MAX`: how many bytes a program may have (R5). -/
def progMax : Nat := 3584

/-- V0 to VF after reset (R28, decision D14; log entry 4). -/
def resetV : Byte := 0

/-- I after reset (R28, decision D14; log entry 4). -/
def resetI : Word := 0

/-- SP after reset: "stack pointer zeroed" (R28). -/
def resetSp : Nibble := 0

/-- Each stack entry after reset (R28, decision D14; log entry 4). -/
def resetStackEntry : Word := 0

/-- DT after reset (R28, decision D14; log entry 4). -/
def resetDt : Byte := 0

/-- `boot_cue_pending` after reset: `ST_RESET > 0` (R28, decision D18; log entry 26). -/
def resetBootCue (p : Params) : Bool := decide (0 < p.stReset.toNat)

/-- The glyphs of the hex digits 0 to 7, five bytes each, top row first (R29). PRESUMED, log entry 1. -/
def defaultGlyphsLow : Vector Byte 40 :=
  #v[0xF0, 0x90, 0x90, 0x90, 0xF0, 0x20, 0x60, 0x20, 0x20, 0x70, 0xF0, 0x10, 0xF0, 0x80, 0xF0, 0xF0, 0x10, 0xF0, 0x10, 0xF0,
     0x90, 0x90, 0xF0, 0x10, 0x10, 0xF0, 0x80, 0xF0, 0x10, 0xF0, 0xF0, 0x80, 0xF0, 0x90, 0xF0, 0xF0, 0x10, 0x20, 0x40, 0x40]

/-- The glyphs of the hex digits 8 to F (R29). PRESUMED, log entry 1. -/
def defaultGlyphsHigh : Vector Byte 40 :=
  #v[0xF0, 0x90, 0xF0, 0x90, 0xF0, 0xF0, 0x90, 0xF0, 0x10, 0xF0, 0xF0, 0x90, 0xF0, 0x90, 0x90, 0xE0, 0x90, 0xE0, 0x90, 0xE0,
     0xF0, 0x80, 0x80, 0x80, 0xF0, 0xE0, 0x90, 0x90, 0x90, 0xE0, 0xF0, 0x80, 0xF0, 0x80, 0xF0, 0xF0, 0x80, 0xF0, 0x80, 0x80]

/-- The default of `FONT` (R29, decision D30): the spec marks these bytes as general knowledge. PRESUMED, log entry 1; unsafe
for a claim about `State.reset` that depends on them. -/
def defaultFont : Font := defaultGlyphsLow ++ defaultGlyphsHigh

/-- The parameters of the machine that `State.reset` describes: `FONT` its default, the others open (R6; log entries 1
and 2). -/
def resetParams : Params :=
  { stReset := Config.stReset, cueThreshold := Config.cueThreshold, shiftSource := Config.shiftSource,
    font := defaultFont }

end Sys2Proof.Machine
end

