-- ==== Sys2Proof/Machine/State.lean ====
section
/-! DEFINITION. The state of the core: every field of 10_state.md R13, and the model's own fields for the open parameters and
the random draws; the reasons a step can stop; the state after reset (R28). -/

namespace Sys2Proof.Machine

/-- The display: 32 rows of 64 pixels, `disp[row][col]` (R21). `true` is a pixel of value 1. -/
abbrev Display := Vector (Vector Bool 64) 32

/-- The sixteen key states; `true` is pressed (R22). -/
abbrev Keys := Vector Bool 16

/-- The causes of the permanent fault flag (R23, R100); `None` is `Option.none`. -/
inductive FaultCause where
  /-- The opcode fetched matches no row of the decode map (R101). -/
  | undecodableOpcode
  /-- PC was above `0xFFE` at a fetch (R102). -/
  | outOfBounds
  deriving DecidableEq, Repr

/-- The tone cue a tick emits (R25, R115). -/
inductive ToneCue where
  | none
  | normal
  | fatal
  deriving DecidableEq, Repr

/-- The state of the core (R13), one field per entry of its record, then the model's own three fields. -/
structure State where
  /-- `mem` (R30): the bytes that differ from the reset contents. -/
  mem : Memory
  /-- `V[0..15]` (R14). -/
  v : Vector Byte 16
  /-- `I` (R18). -/
  i : Word
  /-- `PC` (R16). -/
  pc : Word
  /-- `SP` (R19). -/
  sp : Nibble
  /-- `stack[0..15]` (R19). -/
  stack : Vector Word 16
  /-- `DT` (R20). -/
  dt : Byte
  /-- `ST` (R20). -/
  st : Byte
  /-- `disp` (R21). -/
  disp : Display
  /-- `key` (R22). -/
  key : Keys
  /-- `faulted` (R23). -/
  faulted : Bool
  /-- `fault_cause` (R23). -/
  faultCause : Option FaultCause
  /-- `cycles` (R24). -/
  cycles : Nat
  /-- `boot_cue_pending` (R25). -/
  bootCuePending : Bool
  /-- `cue_latched` (R25). -/
  cueLatched : Bool
  /-- `tone_cue` (R25). -/
  toneCue : ToneCue
  /-- The model's own: the open parameters of R6, given as an argument and never written (log entries 1 and 2). -/
  params : Params
  /-- The model's own: the draws the host has injected for coming `CXKK` executions, oldest first (R27; log entry 3). -/
  draws : List Byte
  /-- The model's own: how many `CXKK` executions took a free draw (log entry 3). -/
  drawIndex : Nat
  deriving DecidableEq, Repr

/-- The cases to which the spec gives no meaning (00_scope.md R11, 30_encoding.md R50). -/
inductive Unspecified where
  /-- `DXY0`, a sprite of height 0 (R93, D9). -/
  | spriteHeightZero
  /-- `EX9E` or `EXA1` with `V[X] > 15` (R94, R95, D11). -/
  | keyIndex
  /-- `FX29` with `V[X] > 15` (R87, D12). -/
  | fontDigit
  /-- `FX33` or `FX55` with a store below `0x200` (R37, D13). -/
  | lowStore
  deriving DecidableEq, Repr

/-- Why the model stops. The two faults of the hardware are no stop: they are next states with the fault flag set. -/
inductive Fault where
  /-- `raise Unspecified(reason)` (R11): raised by `DRW`, `SKP`, `SKNP`, `LD_F`, `BCD` and `ST_REGS` before any write. The
  spec says the model stops there. Safe: no claim is made past it. -/
  | unspecified (reason : Unspecified)
  deriving DecidableEq, Repr

/-- Why the model has no meaning for an instruction. -/
inductive Refusal where
  /-- Raised by an arm of `exec` whose instruction has no meaning yet; no arm of this model raises it. Safe. -/
  | notModelled (mnemonic : String)
  deriving DecidableEq, Repr

/-- The state reset leaves in a machine with the parameters `p` (R28). -/
def State.resetWith (p : Params) : State where
  mem := []
  v := Vector.replicate 16 resetV
  i := resetI
  pc := progBase
  sp := resetSp
  stack := Vector.replicate 16 resetStackEntry
  dt := resetDt
  st := p.stReset
  disp := Vector.replicate 32 (Vector.replicate 64 false)
  key := Vector.replicate 16 false
  faulted := false
  faultCause := none
  cycles := 0
  bootCuePending := resetBootCue p
  cueLatched := false
  toneCue := .none
  params := p
  draws := []
  drawIndex := 0

/-- The machine right after reset and construction (R28, R122, D26), its open parameters free. -/
def State.reset : State := State.resetWith resetParams

end Sys2Proof.Machine
end

