-- ==== Sys2Proof/Machine/Ops.lean ====
section
/-! DEFINITION. The named operations over registers, stack, memory, display, cue state and fault flag that the meanings
share. -/

namespace Sys2Proof.Machine

/-! ### Registers -/

/-- `V[r]` (00_scope.md R9). -/
def State.getV (s : State) (r : Reg) : Byte := s.v[r]

/-- `V[r] <- b` (R9). -/
def State.setV (s : State) (r : Reg) (b : Byte) : State := { s with v := s.v.set r b }

/-- `I <- w`, all 16 bits (10_state.md R18). -/
def State.setI (s : State) (w : Word) : State := { s with i := w }

/-- `PC <- w`, not reduced to 12 bits (R16). -/
def State.setPc (s : State) (w : Word) : State := { s with pc := w }

/-- `DT <- b` (R20). -/
def State.setDt (s : State) (b : Byte) : State := { s with dt := b }

/-- `ST <- b` (R20). -/
def State.setSt (s : State) (b : Byte) : State := { s with st := b }

/-- `PC <- (PC + 2) mod 65536`: the advance before dispatch, and the further advance of a taken skip (40_cycle.md R57). -/
def State.advancePc (s : State) : State := s.setPc (s.pc + 2)

/-- `PC <- pc0`, the undoing of the advance (46_keys_timers.md R96). -/
def State.restorePc (s : State) : State := s.setPc (s.pc - 2)

/-- A skip: over exactly one instruction when the condition holds, never otherwise (41_control_flow.md R62). -/
def State.skipIf (s : State) (c : Bool) : State := if c then s.advancePc else s

/-! ### The stack ring (R19) -/

/-- `stack[j]`. -/
def State.stackAt (s : State) (j : Nibble) : Word := s.stack[(j.toFin : Fin 16)]

/-- `Push(v)`: the slot at SP is written, then SP moves up by one modulo 16. -/
def State.push (s : State) (w : Word) : State :=
  { s with stack := s.stack.set (s.sp.toFin : Fin 16) w, sp := s.sp + 1 }

/-- `SP <- (SP + 16 - 1) mod 16`, the first half of `Pop()`. -/
def State.dropTop (s : State) : State := { s with sp := s.sp + 15 }

/-! ### Memory -/

/-- `EA(k) = (I + k) mod 4096`, the address of byte `k` of an access (20_memory.md R35). -/
def ea (i : Word) (k : Nat) : Addr := BitVec.ofNat 12 (i.toNat + k)

/-- The byte at an address. -/
def State.readByte (s : State) (a : Addr) : Byte := s.mem.read s.params.font a

/-- `MemRead(EA(k), 1)`: byte `k` of the block at I (R35). -/
def State.dataByte (s : State) (k : Nat) : Byte := s.readByte (ea s.i k)

/-- Some byte of an `n`-byte store at I lies below `0x200` (R37). -/
def storesLow (i : Word) (n : Nat) : Bool := (List.range n).any fun k => decide ((ea i k).toNat < 0x200)

/-- The bytes `bs` written one after the other at `EA(k)`, `EA(k+1)`, … (R39: in the order listed). -/
def writeBytes (font : Font) (m : Memory) (i : Word) : Nat → List Byte → Memory
  | _, [] => m
  | k, b :: bs => writeBytes font (m.write font (ea i k) b) i (k + 1) bs

/-- The block at I overwritten with `bs`. -/
def State.storeBytes (s : State) (bs : List Byte) : State :=
  { s with mem := writeBytes s.params.font s.mem s.i 0 bs }

/-- The registers V0 to VF. -/
def allRegs : List Reg := [0, 1, 2, 3, 4, 5, 6, 7, 8, 9, 10, 11, 12, 13, 14, 15]

/-- V0 to Vx in rising order: the registers of a block move (43_index_memory.md R89, R90). -/
def regsUpTo (x : Reg) : List Reg := allRegs.filter fun r => decide (r ≤ x)

/-- `for k in 0..X: V[k] <- MemRead(EA(k), 1)`, over the listed registers (R90). -/
def State.loadRegs (s : State) (rs : List Reg) : State := rs.foldl (fun t r => t.setV r (t.dataByte r.val)) s

/-- `I <- (I + X + 1) mod 65536`, the post-increment of a block move (R84, R89, R90). -/
def State.advanceI (s : State) (x : Reg) : State := s.setI (s.i + BitVec.ofNat 16 (x.val + 1))

/-! ### The display (R21, 45_display.md R93) -/

/-- `disp[row][col]`. -/
def pixelAt (d : Display) (row : Fin 32) (col : Fin 64) : Bool := d[row][col]

/-- The pixel XORed with 1. -/
def flipPixel (d : Display) (row : Fin 32) (col : Fin 64) : Display :=
  d.set row (d[row].set col (!pixelAt d row col))

/-- All pixels 0. -/
def blankDisplay : Display := Vector.replicate 32 (Vector.replicate 64 false)

/-- A draw in progress: the display, and whether a sprite bit 1 has landed on a pixel that was 1. -/
structure Blit where
  disp : Display
  hit : Bool
  deriving DecidableEq, Repr

/-- One sprite bit at one pixel: a bit 1 XORs the pixel and raises the collision if it was 1; a bit 0 does nothing. -/
def blitBit (row : Fin 32) (col : Fin 64) (bit : Bool) (b : Blit) : Blit :=
  if bit then ⟨flipPixel b.disp row col, b.hit || pixelAt b.disp row col⟩ else b

/-- The column of sprite bit `j` of a sprite at `x0`: `(x0 + j) mod 64`. -/
def spriteCol (x0 : Byte) (j : Nat) : Fin 64 := Fin.ofNat 64 (x0.toNat + j)

/-- The row of sprite row `r` of a sprite at `y0`: `(y0 + r) mod 32`. -/
def spriteRow (y0 : Byte) (r : Nat) : Fin 32 := Fin.ofNat 32 (y0.toNat + r)

/-- One sprite byte, its most significant bit at the smallest column (`b[7 - j]`, j from 0 to 7). -/
def blitByte (x0 : Byte) (row : Fin 32) (byte : Byte) (b : Blit) : Blit :=
  (List.range 8).foldl (fun acc j => blitBit row (spriteCol x0 j) (byte.getLsbD (7 - j)) acc) b

/-- `n` sprite rows, the bytes given by their row. -/
def blitRows (byteAt : Nat → Byte) (x0 y0 : Byte) (n : Nat) (b : Blit) : Blit :=
  (List.range n).foldl (fun acc r => blitByte x0 (spriteRow y0 r) (byteAt r) acc) b

/-- The draw of R93 on the display: the sprite of `n` rows at I, drawn at column `x0` and row `y0`. -/
def State.blit (s : State) (x0 y0 : Byte) (n : Nat) : Blit := blitRows s.dataByte x0 y0 n ⟨s.disp, false⟩

/-- The display replaced. -/
def State.setDisp (s : State) (d : Display) : State := { s with disp := d }

/-! ### The random draw (10_state.md R27) -/

/-- The draw the next `CXKK` receives: the oldest injected one, else a free value (log entry 3). -/
def State.nextDraw (s : State) : Byte :=
  match s.draws with
  | d :: _ => d
  | [] => Config.freeDraw s.drawIndex

/-- One draw consumed (44_random.md R91: "Each execution consumes exactly one draw"). -/
def State.consumeDraw (s : State) : State :=
  match s.draws with
  | _ :: ds => { s with draws := ds }
  | [] => { s with drawIndex := s.drawIndex + 1 }

/-! ### The cue state and the fault flag -/

/-- `CueOnWrite(v)`: the cue state after a program write of ST (60_exceptions.md R114). -/
def State.cueOnWrite (s : State) (b : Byte) : State :=
  { s with bootCuePending := false, cueLatched := s.cueLatched && decide (b ≠ 0) }

/-- Taking a fault (R101, R102, R106): the flag and the cause are set. Nothing is saved, no control is transferred, PC
stays where it is. There is no return from it: only `reset` clears the flag (R107). -/
def State.takeFault (s : State) (c : FaultCause) : State := { s with faulted := true, faultCause := some c }

/-- `cycles <- cycles + 1` (40_cycle.md R60). -/
def State.countCycle (s : State) : State := { s with cycles := s.cycles + 1 }

end Sys2Proof.Machine
end

