-- ==== Sys2Proof/Machine/Operands.lean ====
section
/-! DEFINITION. The operand forms of the instructions (30_encoding.md R46): registers are read by `State.getV`, the block at I
by `State.dataByte`; here stand the zero-extended address, the hex-digit operand, the shift source, the key wait and the
digits of BCD. -/

namespace Sys2Proof.Machine

/-- `zext_16(NNN)`: the address operand where it is written to PC or I (R46). -/
def zextAddr (nnn : Addr) : Word := nnn.setWidth 16

/-- A register's value as one of sixteen: a key number or a font digit; `none` above 15 (R87, R94, R95). -/
def hexOperand (b : Byte) : Option (Fin 16) := if h : b.toNat < 16 then some ⟨b.toNat, h⟩ else none

/-- The value `8XY6` and `8XYE` shift: `V[X]` or `V[Y]` by `SHIFT_SOURCE` (42_alu.md R81). -/
def State.shiftOperand (s : State) (x y : Reg) : Byte :=
  match s.params.shiftSource with
  | .vx => s.getV x
  | .vy => s.getV y

/-- `key[k]` (10_state.md R22). -/
def State.keyAt (s : State) (k : Fin 16) : Bool := s.key[k]

/-- The lowest-indexed pressed key, if one is pressed (46_keys_timers.md R96). -/
def State.lowestKey (s : State) : Option Reg := allRegs.find? fun k => s.keyAt k

/-- A key number as a register value (R96). -/
def keyByte (k : Reg) : Byte := BitVec.ofNat 8 k.val

/-- The address of the glyph of digit `d`: `5 * d` (R29, R87). -/
def glyphAddr (d : Fin 16) : Word := BitVec.ofNat 16 (5 * d.val)

/-- Hundreds, tens and units of a byte (43_index_memory.md R88). -/
def bcdDigits (b : Byte) : List Byte := [b / 100, b / 10 % 10, b % 10]

end Sys2Proof.Machine
end

