-- ==== Sys2Proof/Machine/Flags.lean ====
section
/-! DEFINITION. The values of VF as a flag (10_state.md R15) and the one write order of the flag-writing ALU instructions
(42_alu.md R71). -/

namespace Sys2Proof.Machine

/-- A flag as a register value, 0 or 1 (R15). -/
def flagByte (f : Bool) : Byte := if f then 1 else 0

/-- Carry out of an add: the untruncated sum exceeds 255 (R78). -/
def carryOut (a b : Byte) : Bool := decide (255 < a.toNat + b.toNat)

/-- Not-borrow of `a - b`: the minuend is not below the subtrahend (R79, R80). -/
def notBorrow (a b : Byte) : Bool := decide (b.toNat ≤ a.toNat)

/-- The bit a right shift by one moves out: bit 0 of the source (R82). -/
def shiftedOutLow (a : Byte) : Bool := a.getLsbD 0

/-- The bit a left shift by one moves out: bit 7 of the source (R83). -/
def shiftedOutHigh (a : Byte) : Bool := a.getLsbD 7

/-- `V[X]` first, VF last (R71, D4; log entry 16): with X = F, VF ends as the flag. -/
def State.setResultAndFlag (s : State) (x : Reg) (result : Byte) (flag : Bool) : State :=
  (s.setV x result).setV vf (flagByte flag)

end Sys2Proof.Machine
end

