-- ==== Sys2Proof/Machine/Alu.lean ====
section
/-! DEFINITION. Register and ALU instructions (42_alu.md). Every source is read before any register is written (R71). -/

namespace Sys2Proof.Machine

/-- `LD Vx, KK` (R72). -/
def execLdImm (x : Reg) (kk : Byte) (s : State) : Host.Outcome State Fault Refusal := .next (s.setV x kk)

/-- `ADD Vx, KK`: modulo 256, no flag (R73, D6; log entry 17). -/
def execAddImm (x : Reg) (kk : Byte) (s : State) : Host.Outcome State Fault Refusal :=
  .next (s.setV x (s.getV x + kk))

/-- `LD Vx, Vy` (R74). -/
def execLdReg (x y : Reg) (s : State) : Host.Outcome State Fault Refusal := .next (s.setV x (s.getV y))

/-- `OR Vx, Vy`, no flag (R75, D5; log entry 17). -/
def execOr (x y : Reg) (s : State) : Host.Outcome State Fault Refusal := .next (s.setV x (s.getV x ||| s.getV y))

/-- `AND Vx, Vy`, no flag (R76, D5; log entry 17). -/
def execAnd (x y : Reg) (s : State) : Host.Outcome State Fault Refusal := .next (s.setV x (s.getV x &&& s.getV y))

/-- `XOR Vx, Vy`, no flag (R77, D5; log entry 17). -/
def execXor (x y : Reg) (s : State) : Host.Outcome State Fault Refusal := .next (s.setV x (s.getV x ^^^ s.getV y))

/-- `ADD Vx, Vy` with carry out (R78). -/
def execAddReg (x y : Reg) (s : State) : Host.Outcome State Fault Refusal :=
  .next (s.setResultAndFlag x (s.getV x + s.getV y) (carryOut (s.getV x) (s.getV y)))

/-- `SUB Vx, Vy`: `Vx - Vy` with not-borrow (R79). -/
def execSub (x y : Reg) (s : State) : Host.Outcome State Fault Refusal :=
  .next (s.setResultAndFlag x (s.getV x - s.getV y) (notBorrow (s.getV x) (s.getV y)))

/-- `SUBN Vx, Vy`: `Vy - Vx` with not-borrow (R80). -/
def execSubn (x y : Reg) (s : State) : Host.Outcome State Fault Refusal :=
  .next (s.setResultAndFlag x (s.getV y - s.getV x) (notBorrow (s.getV y) (s.getV x)))

/-- `SHR Vx, Vy`: right by one, VF the old bit 0 of the source (R82). -/
def execShr (x y : Reg) (s : State) : Host.Outcome State Fault Refusal :=
  .next (s.setResultAndFlag x (s.shiftOperand x y >>> 1) (shiftedOutLow (s.shiftOperand x y)))

/-- `SHL Vx, Vy`: left by one, VF the old bit 7 of the source (R83). -/
def execShl (x y : Reg) (s : State) : Host.Outcome State Fault Refusal :=
  .next (s.setResultAndFlag x (s.shiftOperand x y <<< 1) (shiftedOutHigh (s.shiftOperand x y)))

end Sys2Proof.Machine
end

