-- ==== Sys2Proof/Machine/ControlFlow.lean ====
section
/-! DEFINITION. Control flow (41_control_flow.md): the execute phase of each instruction. PC holds the instruction's address
plus 2 when it starts (00_scope.md R12). -/

namespace Sys2Proof.Machine

/-- `RET`: `PC <- Pop()` (R63). The entry is not cleared. -/
def execRet (s : State) : Host.Outcome State Fault Refusal := .next (s.dropTop.setPc (s.stackAt s.dropTop.sp))

/-- `JP NNN` (R64). -/
def execJp (nnn : Addr) (s : State) : Host.Outcome State Fault Refusal := .next (s.setPc (zextAddr nnn))

/-- `CALL NNN`: the post-fetch address is pushed (R65). -/
def execCall (nnn : Addr) (s : State) : Host.Outcome State Fault Refusal := .next ((s.push s.pc).setPc (zextAddr nnn))

/-- `JP V0, NNN`: NNN + V0, not reduced to 12 bits (R66). -/
def execJpV0 (nnn : Addr) (s : State) : Host.Outcome State Fault Refusal :=
  .next (s.setPc (zextAddr nnn + (s.getV 0).setWidth 16))

/-- `SE Vx, KK` (R67). -/
def execSeImm (x : Reg) (kk : Byte) (s : State) : Host.Outcome State Fault Refusal :=
  .next (s.skipIf (s.getV x == kk))

/-- `SNE Vx, KK` (R68). -/
def execSneImm (x : Reg) (kk : Byte) (s : State) : Host.Outcome State Fault Refusal :=
  .next (s.skipIf (s.getV x != kk))

/-- `SE Vx, Vy` (R69). -/
def execSeReg (x y : Reg) (s : State) : Host.Outcome State Fault Refusal :=
  .next (s.skipIf (s.getV x == s.getV y))

/-- `SNE Vx, Vy` (R70). -/
def execSneReg (x y : Reg) (s : State) : Host.Outcome State Fault Refusal :=
  .next (s.skipIf (s.getV x != s.getV y))

end Sys2Proof.Machine
end

