-- ==== Sys2Proof/Machine/DisplayInstrs.lean ====
section
/-! DEFINITION. Display instructions (45_display.md). -/

namespace Sys2Proof.Machine

/-- `CLS`: every pixel 0 (R92). -/
def execCls (s : State) : Host.Outcome State Fault Refusal := .next (s.setDisp blankDisplay)

/-- `DRW Vx, Vy, N`: the sprite at I XORed onto the display, VF the collision; the operands are read before VF is written
(R93, D10; log entry 21). Height 0 has no meaning (D9; log entry 15). -/
def execDrw (x y : Reg) (n : Nat) (s : State) : Host.Outcome State Fault Refusal :=
  if n = 0 then .fault (.unspecified .spriteHeightZero)
  else .next ((s.setDisp (s.blit (s.getV x) (s.getV y) n).disp).setV vf
    (flagByte (s.blit (s.getV x) (s.getV y) n).hit))

end Sys2Proof.Machine
end

