-- ==== Sys2Proof/Machine/IndexMemory.lean ====
section
/-! DEFINITION. Address register and memory instructions (43_index_memory.md). A store with a byte below `0x200` stops before
any byte is written (R84). -/

namespace Sys2Proof.Machine

/-- `LD I, NNN` (R85). -/
def execLdI (nnn : Addr) (s : State) : Host.Outcome State Fault Refusal := .next (s.setI (zextAddr nnn))

/-- `ADD I, Vx`: modulo 65536, no flag (R86, D7; log entry 17). -/
def execAddI (x : Reg) (s : State) : Host.Outcome State Fault Refusal :=
  .next (s.setI (s.i + (s.getV x).setWidth 16))

/-- `LD F, Vx`: I at the glyph of digit `V[X]`; no meaning above 15 (R87, D12; log entry 14). -/
def execLdF (x : Reg) (s : State) : Host.Outcome State Fault Refusal :=
  match hexOperand (s.getV x) with
  | some d => .next (s.setI (glyphAddr d))
  | none => .fault (.unspecified .fontDigit)

/-- `LD B, Vx`: the decimal digits of `V[X]` at I, I+1, I+2; I is not changed (R88; log entry 12). -/
def execBcd (x : Reg) (s : State) : Host.Outcome State Fault Refusal :=
  if storesLow s.i 3 then .fault (.unspecified .lowStore)
  else .next (s.storeBytes (bcdDigits (s.getV x)))

/-- `LD [I], Vx`: V0 to Vx to the block at I, then I advances by X + 1 (R89; log entry 12). -/
def execStRegs (x : Reg) (s : State) : Host.Outcome State Fault Refusal :=
  if storesLow s.i (x.val + 1) then .fault (.unspecified .lowStore)
  else .next ((s.storeBytes ((regsUpTo x).map s.getV)).advanceI x)

/-- `LD Vx, [I]`: V0 to Vx from the block at I, then I advances by X + 1 (R90). -/
def execLdRegs (x : Reg) (s : State) : Host.Outcome State Fault Refusal :=
  .next ((s.loadRegs (regsUpTo x)).advanceI x)

end Sys2Proof.Machine
end

