-- ==== Sys2Proof/Machine/KeysTimers.lean ====
section
/-! DEFINITION. Key and timer instructions (46_keys_timers.md). -/

namespace Sys2Proof.Machine

/-- `SKP Vx`: skip if key `V[X]` is pressed; no meaning above 15 (R94, D11; log entry 13). -/
def execSkp (x : Reg) (s : State) : Host.Outcome State Fault Refusal :=
  match hexOperand (s.getV x) with
  | some k => .next (s.skipIf (s.keyAt k))
  | none => .fault (.unspecified .keyIndex)

/-- `SKNP Vx`: skip if key `V[X]` is not pressed; no meaning above 15 (R95, D11; log entry 13). -/
def execSknp (x : Reg) (s : State) : Host.Outcome State Fault Refusal :=
  match hexOperand (s.getV x) with
  | some k => .next (s.skipIf (!s.keyAt k))
  | none => .fault (.unspecified .keyIndex)

/-- `LD Vx, K`: with a key pressed, Vx gets the lowest one's number; with none, PC goes back and the step awaits (R96). -/
def execLdK (x : Reg) (s : State) : Host.Outcome State Fault Refusal :=
  match s.lowestKey with
  | some k => .next (s.setV x (keyByte k))
  | none => .next s.restorePc

/-- `LD Vx, DT` (R97). -/
def execLdVxDt (x : Reg) (s : State) : Host.Outcome State Fault Refusal := .next (s.setV x s.dt)

/-- `LD DT, Vx` (R98). -/
def execLdDt (x : Reg) (s : State) : Host.Outcome State Fault Refusal := .next (s.setDt (s.getV x))

/-- `LD ST, Vx`, with the cue state of a program write (R99, R114). -/
def execLdSt (x : Reg) (s : State) : Host.Outcome State Fault Refusal :=
  .next ((s.setSt (s.getV x)).cueOnWrite (s.getV x))

end Sys2Proof.Machine
end

