-- ==== Sys2Proof/Machine/Random.lean ====
section
/-! DEFINITION. The random byte (44_random.md). -/

namespace Sys2Proof.Machine

/-- `RND Vx, KK`: the draw under the mask; one draw is consumed (R91; log entry 3). -/
def execRnd (x : Reg) (kk : Byte) (s : State) : Host.Outcome State Fault Refusal :=
  .next (s.consumeDraw.setV x (s.nextDraw &&& kk))

end Sys2Proof.Machine
end

