-- ==== Sys2Proof/Machine/Cycle.lean ====
section
/-! DEFINITION. The fetch/decode/execute cycle (40_cycle.md R53 to R61): one step with the status it returns, and the placing
of an instruction where the next step fetches. -/

namespace Sys2Proof.Machine

/-- What a step returns to the host (R60). The model-only `Unspecified` is the outcome `fault`. -/
inductive Status where
  /-- The execute phase completed. -/
  | ok
  /-- `FX0A` with no key pressed. -/
  | awaitingInput
  /-- The core took a fault in this step, or was faulted before it: the fault cause recorded. -/
  | fault (cause : Option FaultCause)
  deriving DecidableEq, Repr

/-- A step's status and next state. -/
structure StepResult where
  status : Status
  state : State
  deriving DecidableEq, Repr

/-- The fetch bounds check fails: `PC > 0xFFE` (R55). -/
def State.fetchOutOfBounds (s : State) : Bool := decide (0xFFE < s.pc.toNat)

/-- The opcode at PC, big-endian (R56). Only used where the bounds check passes. -/
def State.fetchWord (s : State) : Word :=
  wordOfBytes (s.readByte (s.pc.setWidth 12)) (s.readByte ((s.pc + 1).setWidth 12))

/-- The execute phase awaits: only `FX0A` with no key pressed does (R59, R96). -/
def awaits (i : Instr) (s : State) : Bool :=
  match i with
  | .ldK _ => s.lowestKey.isNone
  | .cls | .ret | .jp _ | .call _ | .seImm _ _ | .sneImm _ _ | .seReg _ _ | .ldImm _ _ | .addImm _ _ | .ldReg _ _
  | .orReg _ _ | .andReg _ _ | .xorReg _ _ | .addReg _ _ | .sub _ _ | .shr _ _ | .subn _ _ | .shl _ _ | .sneReg _ _
  | .ldI _ | .jpV0 _ | .rnd _ _ | .drw _ _ _ | .skp _ | .sknp _ | .ldVxDt _ | .ldDt _ | .ldSt _ | .addI _ | .ldF _
  | .bcd _ | .stRegs _ | .ldRegs _ => false

/-- The end of a step whose execute phase gave `t`: an awaiting one counts no cycle (R60). -/
def finishStep (waits : Bool) (t : State) : StepResult :=
  if waits then ⟨.awaitingInput, t⟩ else ⟨.ok, t.countCycle⟩

/-- The execute phase of `i` on the state with PC advanced, and what the step adds after it (R59, R60). -/
def executeDecoded (i : Instr) (s : State) : Host.Outcome StepResult Fault Refusal :=
  match exec i s with
  | .next t => .next (finishStep (awaits i s) t)
  | .fault r => .fault r
  | .refused r => .refused r

/-- `step`, whole (R53): the checks in the order of R105. -/
def State.stepResult (s : State) : Host.Outcome StepResult Fault Refusal :=
  if s.faulted then .next ⟨.fault s.faultCause, s⟩
  else if s.fetchOutOfBounds then .next ⟨.fault (some .outOfBounds), s.takeFault .outOfBounds⟩
  else
    match decode s.fetchWord with
    | .error _ => .next ⟨.fault (some .undecodableOpcode), s.advancePc.takeFault .undecodableOpcode⟩
    | .ok i => executeDecoded i s.advancePc

/-- The next state of a step, its status left out. -/
def stateOf : Host.Outcome StepResult Fault Refusal → Host.Outcome State Fault Refusal
  | .next r => .next r.state
  | .fault r => .fault r
  | .refused r => .refused r

/-- A state that the next step fetches from: a faulted core does not fetch (R54) and a PC above `0xFFE` fails the check
(R55), so the flag is clear and PC is in range, at the load address if it was not (log entry 30). -/
def State.readyToFetch (s : State) : State :=
  { s with
    faulted := false
    faultCause := none
    pc := if s.fetchOutOfBounds then progBase else s.pc }

/-- An opcode stored at PC, its high byte at the lower address (R32). -/
def State.placeWord (s : State) (op : Word) : State :=
  { s with
    mem := (s.mem.write s.params.font (s.pc.setWidth 12) (highByte op)).write s.params.font ((s.pc + 1).setWidth 12)
      (lowByte op) }

end Sys2Proof.Machine
end

