-- ==== Sys2Proof/Machine/Step.lean ====
section
/-! DEFINITION. One step of the machine, and the state whose next step runs a given instruction. -/

namespace Sys2Proof.Machine

/-- One instruction (40_cycle.md R53). -/
def step (s : State) : Host.Outcome State Fault Refusal := stateOf s.stepResult

/-- `s` with the table word stored where `step` fetches its next instruction (log entry 30). -/
def State.withFetchWord (s : State) (nbits w : Nat) : State := s.readyToFetch.placeWord (tableWord nbits w)

end Sys2Proof.Machine
end

