-- ==== Sys2Proof/Machine/HostOps.lean ====
section
/-! DEFINITION. The operations through which the host drives the core (60_exceptions.md R116): each is one atomic transition
(R117). The instruction step is `State.stepResult`; here stand the timer tick with its tone cues, the loader, the key input,
the reset operation, the accessors, and the sequences of operations a host can produce. -/

namespace Sys2Proof.Machine

/-! ### `tick_timers` (R109) -/

/-- One decrement of a timer, floored at 0 (R20, R109). -/
def decTimer (b : Byte) : Byte := if b = 0 then 0 else b - 1

/-- The cue of a tick that takes ST from `st0` to `st1` (R109, R111, R112; log entry 26). -/
def tickCue (boot latched : Bool) (threshold st0 st1 : Byte) : ToneCue :=
  if st0 = 0 then .none
  else if boot then .fatal
  else if !latched && decide (threshold.toNat < st0.toNat) && decide (st1.toNat ≤ threshold.toNat) then .normal
  else .none

/-- The cue of the next tick of a core that is not faulted. -/
def State.tickCue (s : State) : ToneCue :=
  Machine.tickCue s.bootCuePending s.cueLatched s.params.cueThreshold s.st (decTimer s.st)

/-- `tick_timers()` on a core that is not faulted (R109): the timers, the cue latch and the cue. -/
def State.tickRunning (s : State) : State :=
  { s with
    dt := decTimer s.dt
    st := decTimer s.st
    bootCuePending := s.bootCuePending && decide (s.tickCue ≠ .fatal)
    cueLatched := (s.cueLatched || decide (s.tickCue ≠ .none)) && decide (decTimer s.st ≠ 0)
    toneCue := s.tickCue }

/-- `tick_timers()`: a faulted core returns `None` and changes nothing (R103, R109, D16; log entry 23). -/
def State.tickTimers (s : State) : ToneCue × State :=
  if s.faulted then (.none, s) else (s.tickCue, s.tickRunning)

/-! ### `load_program` (70_reset_and_hazards.md R123) -/

/-- What the loader returns. -/
inductive LoadResult where
  | ok
  | programTooLarge
  | emptyProgram
  deriving DecidableEq, Repr

/-- `P` copied verbatim to `0x200` and up. -/
def State.copyProgram (s : State) (p : List Byte) : State :=
  { s with mem := writeBytes s.params.font s.mem progBase 0 p }

/-- `load_program(P)`: a failed load changes nothing; a load works on a faulted core and does not clear the flag (R123,
D19; log entry 27). -/
def State.loadProgram (s : State) (p : List Byte) : LoadResult × State :=
  if p.length = 0 then (.emptyProgram, s)
  else if progMax < p.length then (.programTooLarge, s)
  else (.ok, s.copyProgram p)

/-! ### `set_keys`, `reset`, `step(rnd)` and the accessors -/

/-- `set_keys(k)`: all sixteen at once, on a faulted core too (R103, R116, D31). -/
def State.setKeys (s : State) (k : Keys) : State := { s with key := k }

/-- `reset()`: every field of R13 at its value of R28, whatever the state before (R122). The parameters and the random
generator are not state of the core and stay (R27; log entry 29). -/
def State.resetOp (s : State) : State :=
  { State.resetWith s.params with draws := s.draws, drawIndex := s.drawIndex }

/-- `step(rnd)`: the step with the draw that a `CXKK` consumes given as its input (R53, D23). -/
def State.stepWith (s : State) (rnd : Byte) : Host.Outcome StepResult Fault Refusal :=
  match ({ s with draws := [rnd] } : State).stepResult with
  | .next r => .next ⟨r.status, { r.state with draws := s.draws }⟩
  | .fault e => .fault e
  | .refused e => .refused e

/-- `display()`: the snapshot of the buffer (R21, R116). -/
def State.display (s : State) : Display := s.disp

/-- `is_faulted()` (R23, R116). -/
def State.isFaulted (s : State) : Bool := s.faulted

/-- `cycle_count()` (R24, R116). -/
def State.cycleCount (s : State) : Nat := s.cycles

/-! ### The host interface as one transition (R116, R117) -/

/-- The operations of the table in R116. -/
inductive HostOp where
  | reset
  | loadProgram (p : List Byte)
  | setKeys (k : Keys)
  | step (rnd : Byte)
  | tickTimers
  | display
  | isFaulted
  | cycleCount
  deriving DecidableEq, Repr

/-- What an operation returns. -/
inductive HostResult where
  | none
  | load (r : LoadResult)
  | status (r : Status)
  | cue (c : ToneCue)
  | pixels (d : Display)
  | flag (b : Bool)
  | count (n : Nat)
  deriving DecidableEq, Repr

/-- One call by the host: what it returns, and the state after it. -/
def hostCall (op : HostOp) (s : State) : Host.Outcome (HostResult × State) Fault Refusal :=
  match op with
  | .reset => .next (.none, s.resetOp)
  | .loadProgram p => .next (.load (s.loadProgram p).1, (s.loadProgram p).2)
  | .setKeys k => .next (.none, s.setKeys k)
  | .step rnd =>
    match s.stepWith rnd with
    | .next r => .next (.status r.status, r.state)
    | .fault e => .fault e
    | .refused e => .refused e
  | .tickTimers => .next (.cue s.tickTimers.1, s.tickTimers.2)
  | .display => .next (.pixels s.display, s)
  | .isFaulted => .next (.flag s.isFaulted, s)
  | .cycleCount => .next (.count s.cycleCount, s)

/-- A sequence of calls: the results in order and the last state. The host may make them in any order (R118). -/
def hostRun : List HostOp → State → Host.Outcome (List HostResult × State) Fault Refusal
  | [], s => .next ([], s)
  | op :: ops, s =>
    match hostCall op s with
    | .next (r, t) =>
      match hostRun ops t with
      | .next (rs, u) => .next (r :: rs, u)
      | .fault e => .fault e
      | .refused e => .refused e
    | .fault e => .fault e
    | .refused e => .refused e

end Sys2Proof.Machine
end

