-- ==== Sys2Proof/Safety.lean ====
section
/-! DEFINITION. The terms claims use: a run without a fault, the invariant of the core between host operations, and what it
means that two states agree but for named parts. -/

namespace Sys2Proof.Machine

/-- No fault is recorded: the premise a claim about a program carries (60_exceptions.md R103). -/
abbrev State.Safe (s : State) : Prop := s.faulted = false

/-- The invariant of the core between host operations. Memory is canonical and lists no address outside the space; the
fault flag and the cause go together (R101, R102); PC never exceeds `0x10FE` (10_state.md R16) and no stack entry exceeds
`0x1000`; a latched cue means a countdown run is on, and a pending boot cue means ST still holds its reset value (R110). -/
structure State.Inv (s : State) : Prop where
  memCanonical : s.mem.wf s.params.font = true
  causeRecorded : s.faulted = s.faultCause.isSome
  pcBound : s.pc.toNat ≤ 0x10FE
  stackBound : ∀ j : Nibble, (s.stackAt j).toNat ≤ 0x1000
  latchedCounts : s.cueLatched = true → s.st ≠ 0
  bootUntouched : s.bootCuePending = true → s.st = s.params.stReset ∧ s.st ≠ 0 ∧ s.cueLatched = false

/-- The parts of the state, one for each field; memory is compared byte by byte, through the read of one byte. -/
inductive Part where
  | mem | v | i | pc | sp | stack | dt | st | disp | key | faulted | faultCause | cycles | bootCuePending | cueLatched
  | toneCue | params | draws | drawIndex
  deriving DecidableEq, Repr

/-- A part is the same in both states. -/
def Part.Same (s t : State) : Part → Prop
  | .mem => ∀ a : Addr, t.readByte a = s.readByte a
  | .v => ∀ r : Reg, t.getV r = s.getV r
  | .i => t.i = s.i
  | .pc => t.pc = s.pc
  | .sp => t.sp = s.sp
  | .stack => ∀ j : Nibble, t.stackAt j = s.stackAt j
  | .dt => t.dt = s.dt
  | .st => t.st = s.st
  | .disp => ∀ row col, pixelAt t.disp row col = pixelAt s.disp row col
  | .key => ∀ k : Fin 16, t.keyAt k = s.keyAt k
  | .faulted => t.faulted = s.faulted
  | .faultCause => t.faultCause = s.faultCause
  | .cycles => t.cycles = s.cycles
  | .bootCuePending => t.bootCuePending = s.bootCuePending
  | .cueLatched => t.cueLatched = s.cueLatched
  | .toneCue => t.toneCue = s.toneCue
  | .params => t.params = s.params
  | .draws => t.draws = s.draws
  | .drawIndex => t.drawIndex = s.drawIndex

/-- The two states agree in every part that is not listed. -/
def SameBut (changed : List Part) (s t : State) : Prop := ∀ p : Part, p ∉ changed → p.Same s t

/-- Every register but the listed ones is the same in both states. -/
def RegsSameBut (written : List Reg) (s t : State) : Prop := ∀ r : Reg, r ∉ written → t.getV r = s.getV r

/-- Every byte of memory whose address is none of the `n` addresses of a block at `i` is the same in both states. -/
def BytesSameOutside (i : Word) (n : Nat) (s t : State) : Prop :=
  ∀ a : Addr, (∀ k, k < n → ea i k ≠ a) → t.readByte a = s.readByte a

/-- A sprite bit 1 lands on the pixel: some row `r` below `n` and some `j` below 8 have their pixel there
(`((VY+row) mod 32, (VX+(7-bit)) mod 64)`, 45_display.md R93) and bit `7 - j` of byte `r` is 1. -/
def spriteCovers (byteAt : Nat → Byte) (x0 y0 : Byte) (n : Nat) (row : Fin 32) (col : Fin 64) : Bool :=
  (List.range n).any fun r => (List.range 8).any fun j =>
    decide (row = spriteRow y0 r) && decide (col = spriteCol x0 j) && (byteAt r).getLsbD (7 - j)

/-- The registers an instruction names as its destination (the operands line of its rule in 41 to 46). -/
def destRegs : Instr → List Reg
  | .ldImm x _ | .addImm x _ | .ldReg x _ | .orReg x _ | .andReg x _ | .xorReg x _ | .addReg x _ | .sub x _ | .shr x _
  | .subn x _ | .shl x _ | .rnd x _ | .ldVxDt x | .ldK x => [x]
  | .ldRegs x => regsUpTo x
  | .cls | .ret | .jp _ | .call _ | .seImm _ _ | .sneImm _ _ | .seReg _ _ | .sneReg _ _ | .ldI _ | .jpV0 _
  | .drw _ _ _ | .skp _ | .sknp _ | .ldDt _ | .ldSt _ | .addI _ | .ldF _ | .bcd _ | .stRegs _ => []

/-- The flag-writing instructions (10_state.md R15). -/
def writesFlag : Instr → Bool
  | .addReg _ _ | .sub _ _ | .subn _ _ | .shr _ _ | .shl _ _ | .drw _ _ _ => true
  | .cls | .ret | .jp _ | .call _ | .seImm _ _ | .sneImm _ _ | .seReg _ _ | .ldImm _ _ | .addImm _ _ | .ldReg _ _
  | .orReg _ _ | .andReg _ _ | .xorReg _ _ | .sneReg _ _ | .ldI _ | .jpV0 _ | .rnd _ _ | .skp _ | .sknp _ | .ldVxDt _
  | .ldK _ | .ldDt _ | .ldSt _ | .addI _ | .ldF _ | .bcd _ | .stRegs _ | .ldRegs _ => false

/-- The parts other than V and memory that an instruction's rule writes. -/
def writtenParts : Instr → List Part
  | .cls => [.disp]
  | .ret => [.sp, .pc]
  | .call _ => [.stack, .sp, .pc]
  | .jp _ | .jpV0 _ | .seImm _ _ | .sneImm _ _ | .seReg _ _ | .sneReg _ _ | .skp _ | .sknp _ | .ldK _ => [.pc]
  | .ldImm _ _ | .addImm _ _ | .ldReg _ _ | .orReg _ _ | .andReg _ _ | .xorReg _ _ | .addReg _ _ | .sub _ _ | .shr _ _
  | .subn _ _ | .shl _ _ | .ldVxDt _ | .bcd _ => []
  | .ldI _ | .addI _ | .ldF _ | .stRegs _ | .ldRegs _ => [.i]
  | .rnd _ _ => [.draws, .drawIndex]
  | .drw _ _ _ => [.disp]
  | .ldDt _ => [.dt]
  | .ldSt _ => [.st, .bootCuePending, .cueLatched]

/-- The next step executes `LD ST, Vx`: the core is not faulted, PC is in range, and the opcode there is one (R54, R55, R99). -/
abbrev State.ExecutesLdSt (s : State) : Prop :=
  s.faulted = false ∧ s.pc.toNat ≤ 0xFFE ∧ ∃ x : Reg, decode s.fetchWord = .ok (.ldSt x)

/-- The call gives ST no new start: it is no `reset`, and no step that executes `LD ST, Vx` (60_exceptions.md R110, R113). -/
def keepsSoundRun (op : HostOp) (s : State) : Bool :=
  match op with
  | .reset => false
  | .step _ => !decide s.ExecutesLdSt
  | .loadProgram _ | .setKeys _ | .tickTimers | .display | .isFaulted | .cycleCount => true

/-- Every call of the sequence, made in the state the calls before it leave, gives ST no new start. -/
def runKeepsSoundRun : List HostOp → State → Bool
  | [], _ => true
  | op :: ops, s =>
    keepsSoundRun op s &&
      match hostCall op s with
      | .next (_, t) => runKeepsSoundRun ops t
      | .fault _ | .refused _ => true

/-- The result of a call is a tone cue other than `None`. -/
def HostResult.isCue (r : HostResult) : Bool := decide (r = .cue .normal) || decide (r = .cue .fatal)

/-- The cues of `n` ticks in a row, with no other operation between them. -/
def tickCues : Nat → State → List ToneCue
  | 0, _ => []
  | n + 1, s => s.tickTimers.1 :: tickCues n s.tickTimers.2

end Sys2Proof.Machine
end

