-- ==== Sys2Proof/Certificates/Slice0/Obligations.lean ====
section
/-! DEFINITION. The statements for the provers. A statement about an instruction is about its execute phase, which starts with
PC already advanced (00_scope.md R12); `Obligations.StepRunsTheDecodedInstruction` ties it to a step. -/

open Sys2Proof Sys2Proof.Machine

/-! ### Encoding (30_encoding.md) -/

/-- Every well-formed instruction, with every operand, is read back from its opcode and from its two bytes; the decoder
consumes exactly two bytes (R44, R47). -/
def Obligations.DecodeOfEncodeIsIdentity : Prop :=
  ∀ (i : Instr) (rest : List Byte), i.WellFormed →
    decode (encode i) = .ok i ∧ decodeBytes (encodeBytes i ++ rest) = .ok (i, rest)

/-- An opcode that decodes is the opcode of the instruction it decodes to, and that instruction is well formed (R47). -/
def Obligations.EncodeOfDecodeIsIdentity : Prop :=
  ∀ (op : Word) (i : Instr), decode op = .ok i → i.WellFormed ∧ encode i = op

/-- The opcode of each instruction in numbers: the fixed bits of its pattern plus each operand at its field's place (R45,
R46, R47). With `Obligations.DecodeOfEncodeIsIdentity` it says that the decoder reads each field where the pattern has
it. -/
def Obligations.EncodingsFollowTheirPatterns : Prop :=
  ∀ (x y : Reg) (n : Nat) (kk : Byte) (nnn : Addr), n < 16 →
    [Instr.cls, .ret].map (fun i => (encode i).toNat) = [0x00E0, 0x00EE] ∧
    [Instr.jp nnn, .call nnn, .ldI nnn, .jpV0 nnn].map (fun i => (encode i).toNat) =
      [0x1000, 0x2000, 0xA000, 0xB000].map (fun p => p + nnn.toNat) ∧
    [Instr.seImm x kk, .sneImm x kk, .ldImm x kk, .addImm x kk, .rnd x kk].map (fun i => (encode i).toNat) =
      [0x3000, 0x4000, 0x6000, 0x7000, 0xC000].map (fun p => p + 256 * x.val + kk.toNat) ∧
    [Instr.seReg x y, .ldReg x y, .orReg x y, .andReg x y, .xorReg x y, .addReg x y, .sub x y, .shr x y, .subn x y, .shl x y,
      .sneReg x y].map (fun i => (encode i).toNat) =
      [0x5000, 0x8000, 0x8001, 0x8002, 0x8003, 0x8004, 0x8005, 0x8006, 0x8007, 0x800E, 0x9000].map
        (fun p => p + 256 * x.val + 16 * y.val) ∧
    (encode (.drw x y n)).toNat = 0xD000 + 256 * x.val + 16 * y.val + n ∧
    [Instr.skp x, .sknp x, .ldVxDt x, .ldK x, .ldDt x, .ldSt x, .addI x, .ldF x, .bcd x, .stRegs x, .ldRegs x].map
      (fun i => (encode i).toNat) =
      [0xE09E, 0xE0A1, 0xF007, 0xF00A, 0xF015, 0xF018, 0xF01E, 0xF029, 0xF033, 0xF055, 0xF065].map (fun p => p + 256 * x.val)

/-- R47: `decode` is total; an opcode decodes to the instruction of the one row of spec/opcode_table.json whose match and
mask it meets, and the rows are disjoint. -/
def Obligations.DecodeFollowsTheOpcodeTable : Prop :=
  (∀ op i, decode op = .ok i → ∃ row ∈ opcodeRows, row.accepts op = true ∧ row.mnemonic = i.mnemonic) ∧
  (∀ op, ∀ row ∈ opcodeRows, row.accepts op = true → ∃ i, decode op = .ok i ∧ i.mnemonic = row.mnemonic) ∧
  (∀ op, ∀ row ∈ opcodeRows, ∀ row' ∈ opcodeRows, row.accepts op = true → row'.accepts op = true → row = row')

/-- The undecodable opcodes by group. That exactly these do not decode is the spec's own decision D3 (R49; log entry
11). -/
def Obligations.UndecodableOpcodesByGroup : Prop :=
  ∀ op : Word, decode op = .error (.undecodableOpcode op) ↔
    (op.toNat / 4096 = 0x0 ∧ op ≠ 0x00E0 ∧ op ≠ 0x00EE) ∨
    ((op.toNat / 4096 = 0x5 ∨ op.toNat / 4096 = 0x9) ∧ op.toNat % 16 ≠ 0) ∨
    (op.toNat / 4096 = 0x8 ∧ op.toNat % 16 ∈ [0x8, 0x9, 0xA, 0xB, 0xC, 0xD, 0xF]) ∨
    (op.toNat / 4096 = 0xE ∧ op.toNat % 256 ∉ [0x9E, 0xA1]) ∨
    (op.toNat / 4096 = 0xF ∧ op.toNat % 256 ∉ [0x07, 0x0A, 0x15, 0x18, 0x1E, 0x29, 0x33, 0x55, 0x65])

/-- How many opcodes decode in each group: R48's counts for a decoder test (R48 [derived]). -/
def Obligations.DecodableOpcodeCounts : Prop :=
  ∀ g : Fin 16, ((List.range 4096).countP fun n => (decode (BitVec.ofNat 16 (g.val * 4096 + n))).isOk) =
    [2, 4096, 4096, 4096, 4096, 256, 4096, 4096, 2304, 256, 4096, 4096, 4096, 4096, 32, 144].getD g.val 0

/-- Words written out in the spec decode to the instructions they stand for there: `8014` is `ADD V0, V1` (W4), `D125` is
`DRW V1, V2, 5` (R93), `332A` is `SE V3, 0x2A` (R67), `B300` is `JP V0, 0x300` (R66), `F355` is `LD [I], V3` (R89), `E5A1`
is `SKNP V5` (R95), `00EE` is `RET` (R63); `0123` and `5121` are undecodable (vectors ST3, ST4). -/
def Obligations.SpecExampleWordsDecode : Prop :=
  decode 0x8014 = .ok (.addReg 0 1) ∧ decode 0xD125 = .ok (.drw 1 2 5) ∧ decode 0x332A = .ok (.seImm 3 0x2A) ∧
  decode 0xB300 = .ok (.jpV0 0x300) ∧ decode 0xF355 = .ok (.stRegs 3) ∧ decode 0xE5A1 = .ok (.sknp 5) ∧
  decode 0x00EE = .ok .ret ∧ decode 0x0123 = .error (.undecodableOpcode 0x0123) ∧
  decode 0x5121 = .error (.undecodableOpcode 0x5121)

/-! ### The step (40_cycle.md) -/

/-- A core that is not faulted, with PC in range, whose opcode decodes to `i`: the step is the execute phase of `i` with PC
advanced by 2; a completed one counts a cycle and an awaiting one does not (R53, R57, R59; the count is the spec's decision
D17, log entry 24). -/
def Obligations.StepRunsTheDecodedInstruction : Prop :=
  ∀ (s : State) (i : Instr), s.faulted = false → s.pc.toNat ≤ 0xFFE → decode s.fetchWord = .ok i →
    (∀ t, exec i (s.setPc (s.pc + 2)) = .next t →
      ((∃ x, i = .ldK x) ∧ (∀ k, s.keyAt k = false) → s.stepResult = .next ⟨.awaitingInput, t⟩ ∧ step s = .next t) ∧
      (¬((∃ x, i = .ldK x) ∧ (∀ k, s.keyAt k = false)) →
        s.stepResult = .next ⟨.ok, t.countCycle⟩ ∧ step s = .next t.countCycle)) ∧
    (∀ e, exec i (s.setPc (s.pc + 2)) = .fault e → step s = .fault e) ∧
    (∀ e, exec i (s.setPc (s.pc + 2)) = .refused e → step s = .refused e)

/-- R56: the opcode fetched is `mem[PC] * 256 + mem[PC + 1]`, from the memory as it stands when the step starts. -/
def Obligations.FetchIsBigEndian : Prop :=
  ∀ s : State, s.pc.toNat ≤ 0xFFE →
    s.fetchWord.toNat = (s.readByte (BitVec.ofNat 12 s.pc.toNat)).toNat * 256 +
      (s.readByte (BitVec.ofNat 12 (s.pc.toNat + 1))).toNat

/-- A faulted core is frozen: any sequence of steps and ticks leaves the whole state as it is, each step returning the
recorded cause and each tick None. The spec's decision D16 (R54, R103, R109; log entry 23). -/
def Obligations.FaultedCoreIsFrozen : Prop :=
  ∀ (s : State) (ops : List HostOp), s.faulted = true → (∀ op ∈ ops, (∃ rnd, op = .step rnd) ∨ op = .tickTimers) →
    step s = .next s ∧
    hostRun ops s =
      .next (ops.map fun op => if op = .tickTimers then .cue .none else .status (.fault s.faultCause), s)

/-- A fetch with PC above `0xFFE` takes the OutOfBounds fault and changes nothing else. The spec's decisions D1 and D25
(R55, R102; log entry 9). -/
def Obligations.FetchPastMemoryTakesOutOfBounds : Prop :=
  ∀ s : State, s.faulted = false → 0xFFE < s.pc.toNat →
    ∃ t, s.stepResult = .next ⟨.fault (some .outOfBounds), t⟩ ∧ step s = .next t ∧ t.faulted = true ∧
      t.faultCause = some .outOfBounds ∧ SameBut [.faulted, .faultCause] s t

/-- An opcode of no row of the table takes the UndecodableOpcode fault: the flag, the cause and the PC advance, nothing
else. The place of PC is the spec's decision D15 (R58, R101, R106; log entry 11). -/
def Obligations.UnknownOpcodeTakesUndecodableOpcode : Prop :=
  ∀ s : State, s.faulted = false → s.pc.toNat ≤ 0xFFE → (∀ row ∈ opcodeRows, row.accepts s.fetchWord = false) →
    ∃ t, s.stepResult = .next ⟨.fault (some .undecodableOpcode), t⟩ ∧ step s = .next t ∧ t.faulted = true ∧
      t.faultCause = some .undecodableOpcode ∧ t.pc.toNat = (s.pc.toNat + 2) % 65536 ∧
      SameBut [.faulted, .faultCause, .pc] s t

/-- Exactly the steps that return Ok count a cycle. The spec's decision D17 (R24, R60; log entry 24). -/
def Obligations.CyclesCountCompletedSteps : Prop :=
  ∀ (s : State) (r : StepResult), s.stepResult = .next r →
    (r.status = .ok → r.state.cycles = s.cycles + 1) ∧ (r.status ≠ .ok → r.state.cycles = s.cycles)

/-- A step that awaits executed `FX0A` with no key pressed and left the whole state as it was (R59, R60, R96, R121). -/
def Obligations.OnlyTheKeyWaitSuspends : Prop :=
  ∀ (s : State) (r : StepResult), s.stepResult = .next r → r.status = .awaitingInput →
    (∃ x, decode s.fetchWord = .ok (.ldK x)) ∧ (∀ k, s.keyAt k = false) ∧ r.state = s

/-- R22: no step writes a key; the host's `set_keys` writes all sixteen; reset clears them. -/
def Obligations.OnlyTheHostWritesKeys : Prop :=
  (∀ s t : State, step s = .next t → ∀ k, t.keyAt k = s.keyAt k) ∧
  (∀ (s : State) (ks : Keys), ∃ t, hostCall (.setKeys ks) s = .next (.none, t) ∧ (∀ k : Fin 16, t.keyAt k = ks[k]) ∧
    SameBut [.key] s t) ∧
  (∀ s : State, ∃ t, hostCall .reset s = .next (.none, t) ∧ ∀ k, t.keyAt k = false)

/-! ### What an instruction can change, over all instructions -/

/-- A register changes only as a named destination, or as VF by a flag-writing instruction, which leaves 0 or 1 there
(R15). Which instructions write the flag, and that it is written last, are the spec's decisions D4 to D7 (log entries 16
and 17). -/
def Obligations.RegistersChangeOnlyAsDestinationOrFlag : Prop :=
  ∀ (i : Instr) (s t : State), exec i s = .next t →
    (∀ r, r ∉ destRegs i → (r = vf → writesFlag i = false) → t.getV r = s.getV r) ∧
    (writesFlag i = true → t.getV vf = 0 ∨ t.getV vf = 1)

/-- Only `FX33` and `FX55` write memory, only inside their block at I, and never below `0x200` (R31; that a store below
`0x200` has no next state is the spec's decision D13, R37, log entry 12). The premise is the memory clause of
`State.Inv`. -/
def Obligations.MemoryChangesOnlyByBlockStores : Prop :=
  ∀ (i : Instr) (s t : State), s.mem.wf s.params.font = true → exec i s = .next t → ∀ a : Addr, t.readByte a ≠ s.readByte a →
    0x200 ≤ a.toNat ∧
    ((∃ x, i = .bcd x ∧ ∃ k, k < 3 ∧ ea s.i k = a) ∨ (∃ x : Reg, i = .stRegs x ∧ ∃ k, k ≤ x.val ∧ ea s.i k = a))

/-- Every part but V and memory changes only by the instructions whose rules write it: the display by `CLS` and `DRW`
(R21), the stack by `CALL` and SP by `CALL` and `RET` (R19), I by its five writers (R18), DT by `FX15` and ST by `FX18`
(R20), PC by control flow and the key wait (R16, R59), a draw by `CXKK` (R91); keys, fault flag, cause, cycles, tone cue and
parameters by none. -/
def Obligations.PartsChangeOnlyByTheirWriters : Prop :=
  ∀ (i : Instr) (s t : State), exec i s = .next t → SameBut (.v :: .mem :: writtenParts i) s t

/-- The execute phase stops exactly in the cases of R50, each under its name, and is never refused: sprite height 0, a key
index or font digit above 15, a store with a byte below `0x200`. The spec's decisions D9, D11, D12, D13 (log entries 12 to
15). -/
def Obligations.StopsExactlyWhereUnspecified : Prop :=
  ∀ (i : Instr) (s : State), (∀ e, exec i s ≠ .refused e) ∧ ∀ e, exec i s = .fault e ↔
    (e = .unspecified .spriteHeightZero ∧ ∃ x y, i = .drw x y 0) ∨
    (e = .unspecified .keyIndex ∧ ∃ x, (i = .skp x ∨ i = .sknp x) ∧ 15 < (s.getV x).toNat) ∨
    (e = .unspecified .fontDigit ∧ ∃ x, i = .ldF x ∧ 15 < (s.getV x).toNat) ∨
    (e = .unspecified .lowStore ∧ ∃ x : Reg,
      (i = .bcd x ∧ ∃ k, k < 3 ∧ (s.i.toNat + k) % 4096 < 0x200) ∨
      (i = .stRegs x ∧ ∃ k, k ≤ x.val ∧ (s.i.toNat + k) % 4096 < 0x200))

/-- No instruction reads ST or the cycle counter: changing either before an instruction changes nothing else after it (R20
"No instruction reads ST"; R24 "No program can observe it"). -/
def Obligations.SoundTimerAndCyclesAreNotRead : Prop :=
  ∀ (i : Instr) (s : State) (b : Byte) (n : Nat),
    (∀ t, exec i s = .next t →
      ((∀ x, i ≠ .ldSt x) → exec i (s.setSt b) = .next (t.setSt b)) ∧
      ((∃ x, i = .ldSt x) → exec i (s.setSt b) = .next t) ∧
      exec i { s with cycles := n } = .next { t with cycles := n }) ∧
    (∀ e, exec i s = .fault e → exec i (s.setSt b) = .fault e ∧ exec i { s with cycles := n } = .fault e)

/-! ### Invariants -/

/-- Every step keeps the invariant of the core (`State.Inv`), from every state that meets it. -/
def Obligations.StepKeepsTheInvariant : Prop :=
  ∀ s t : State, s.Inv → step s = .next t → t.Inv

/-- The state after reset meets the invariant, whatever the open parameters are. -/
def Obligations.ResetMeetsTheInvariant : Prop :=
  State.reset.Inv ∧ ∀ p : Params, (State.resetWith p).Inv

/-- Every sequence of host operations keeps the invariant, among its clauses R110's: a latched cue means a countdown run, a
pending boot cue means ST still holds its reset value, which is not 0 (R110 [derived]; R117, R118). -/
def Obligations.HostRunsKeepTheInvariant : Prop :=
  ∀ (ops : List HostOp) (s t : State) (rs : List HostResult), s.Inv → hostRun ops s = .next (rs, t) → t.Inv

/-- Memory below `0x200` keeps its reset contents, the font among them, through every sequence of host operations (W1, R36,
R123). That no store reaches it is the spec's decision D13 (R37, log entry 12). -/
def Obligations.LowMemoryKeepsItsResetContents : Prop :=
  ∀ (ops : List HostOp) (s t : State) (rs : List HostResult), s.mem.wf s.params.font = true →
    (∀ a : Addr, a.toNat < 0x200 → s.readByte a = resetByte s.params.font a.toNat) → hostRun ops s = .next (rs, t) →
    ∀ a : Addr, a.toNat < 0x200 → t.readByte a = resetByte s.params.font a.toNat

/-- Canonical memories that read alike at every address are the same data. The canonical form is the model's own (log entry
5). -/
def Obligations.CanonicalMemoriesReadingAlikeAreEqual : Prop :=
  ∀ (font : Font) (m m' : Memory), m.wf font = true → m'.wf font = true → (∀ a : Addr, m.read font a = m'.read font a) →
    m = m'

/-! ### Control flow (41_control_flow.md) -/

/-- R63, `00EE`: SP moves down by one modulo 16 and PC takes the entry there; the entry is not cleared. -/
def Obligations.RetPopsIntoPc : Prop :=
  encode .ret = 0x00EE ∧
  ∀ s : State, ∃ t, exec .ret s = .next t ∧ t.sp.toNat = (s.sp.toNat + 15) % 16 ∧ t.pc = s.stackAt t.sp ∧
    SameBut [.sp, .pc] s t

/-- R64, `1NNN`: PC takes NNN, zero-extended. -/
def Obligations.JumpSetsPc : Prop :=
  ∀ (nnn : Addr) (s : State), (encode (.jp nnn)).toNat = 0x1000 + nnn.toNat ∧
    ∃ t, exec (.jp nnn) s = .next t ∧ t.pc.toNat = nnn.toNat ∧ SameBut [.pc] s t

/-- R65, `2NNN`: the post-fetch PC goes into the entry at SP, SP moves up by one modulo 16, PC takes NNN. -/
def Obligations.CallPushesTheReturnAddress : Prop :=
  ∀ (nnn : Addr) (s : State), (encode (.call nnn)).toNat = 0x2000 + nnn.toNat ∧
    ∃ t, exec (.call nnn) s = .next t ∧ t.stackAt s.sp = s.pc ∧
    (∀ j, j ≠ s.sp → t.stackAt j = s.stackAt j) ∧ t.sp.toNat = (s.sp.toNat + 1) % 16 ∧ t.pc.toNat = nnn.toNat ∧
    SameBut [.stack, .sp, .pc] s t

/-- `JP V0, NNN` adds V0, and the sum is not reduced to 12 bits. The spec's decisions D1 and D8 (R66; log entries 9 and
18). -/
def Obligations.JumpWithOffsetAddsV0 : Prop :=
  ∀ (nnn : Addr) (s : State), ∃ t, exec (.jpV0 nnn) s = .next t ∧
    t.pc.toNat = (nnn.toNat + (s.getV 0).toNat) % 65536 ∧ SameBut [.pc] s t

/-- A return right after a call comes back to the post-fetch address, with SP as before the call (R19, R63, R65). -/
def Obligations.RetAfterCallReturns : Prop :=
  ∀ (nnn : Addr) (s : State), ∃ t u, exec (.call nnn) s = .next t ∧ exec .ret t = .next u ∧ u.pc = s.pc ∧ u.sp = s.sp ∧
    SameBut [.stack] s u

/-- The ring holds the last sixteen pushed values, the newest on top, whatever was pushed before them: after 17 pushes
the sixteenth value from the top is the second pushed, and the first is lost (R19; C4 corrects DOC's count). Entry width:
the spec's decision D27 (log entry 25). -/
def Obligations.StackRingKeepsTheLastSixteen : Prop :=
  ∀ (s : State) (ws : List Word) (n : Nat), n ≤ ws.length → 1 ≤ n → n ≤ 16 →
    (ws.foldl State.push s).sp = s.sp + BitVec.ofNat 4 ws.length ∧
    ws[ws.length - n]? = some ((ws.foldl State.push s).stackAt ((ws.foldl State.push s).sp - BitVec.ofNat 4 n))

/-- R67 (`3XKK`), R68 (`4XKK`): a skip on an immediate adds 2 to PC when its condition holds, and changes nothing otherwise. -/
def Obligations.SkipsOnImmediate : Prop :=
  ∀ (x : Reg) (kk : Byte) (s : State), (encode (.seImm x kk)).toNat = 0x3000 + 256 * x.val + kk.toNat ∧
    (encode (.sneImm x kk)).toNat = 0x4000 + 256 * x.val + kk.toNat ∧
    ∃ t u, exec (.seImm x kk) s = .next t ∧ exec (.sneImm x kk) s = .next u ∧
    t.pc.toNat = (if s.getV x = kk then (s.pc.toNat + 2) % 65536 else s.pc.toNat) ∧
    u.pc.toNat = (if s.getV x ≠ kk then (s.pc.toNat + 2) % 65536 else s.pc.toNat) ∧
    SameBut [.pc] s t ∧ SameBut [.pc] s u

/-- A skip on two registers adds 2 to PC when its condition holds, and changes nothing otherwise (R69, R70; the spec's
decision D3 concerns their encodings). -/
def Obligations.SkipsOnRegisters : Prop :=
  ∀ (x y : Reg) (s : State), ∃ t u, exec (.seReg x y) s = .next t ∧ exec (.sneReg x y) s = .next u ∧
    t.pc.toNat = (if s.getV x = s.getV y then (s.pc.toNat + 2) % 65536 else s.pc.toNat) ∧
    u.pc.toNat = (if s.getV x ≠ s.getV y then (s.pc.toNat + 2) % 65536 else s.pc.toNat) ∧
    SameBut [.pc] s t ∧ SameBut [.pc] s u

/-! ### Registers and ALU (42_alu.md) -/

/-- R72 (`6XKK`), R74 (`8XY0`): Vx takes KK, or Vy; nothing else changes. -/
def Obligations.LoadsOfRegisters : Prop :=
  ∀ (x y : Reg) (kk : Byte) (s : State), (encode (.ldImm x kk)).toNat = 0x6000 + 256 * x.val + kk.toNat ∧
    (encode (.ldReg x y)).toNat = 0x8000 + 256 * x.val + 16 * y.val ∧
    ∃ t u, exec (.ldImm x kk) s = .next t ∧ exec (.ldReg x y) s = .next u ∧
    t.getV x = kk ∧ u.getV x = s.getV y ∧ RegsSameBut [x] s t ∧ RegsSameBut [x] s u ∧ SameBut [.v] s t ∧
    SameBut [.v] s u

/-- The immediate add wraps modulo 256 and writes no flag. The spec's decision D6 (R73; log entry 17). -/
def Obligations.AddImmediateWritesNoFlag : Prop :=
  ∀ (x : Reg) (kk : Byte) (s : State), ∃ t, exec (.addImm x kk) s = .next t ∧
    (t.getV x).toNat = ((s.getV x).toNat + kk.toNat) % 256 ∧ RegsSameBut [x] s t ∧ SameBut [.v] s t

/-- The logic instructions, bit by bit; they write no flag. The spec's decision D5 (R75, R76, R77; log entry 17). -/
def Obligations.LogicWritesNoFlag : Prop :=
  ∀ (x y : Reg) (s : State), ∃ t u w, exec (.orReg x y) s = .next t ∧ exec (.andReg x y) s = .next u ∧
    exec (.xorReg x y) s = .next w ∧
    (∀ n, (t.getV x).getLsbD n = ((s.getV x).getLsbD n || (s.getV y).getLsbD n)) ∧
    (∀ n, (u.getV x).getLsbD n = ((s.getV x).getLsbD n && (s.getV y).getLsbD n)) ∧
    (∀ n, (w.getV x).getLsbD n = ((s.getV x).getLsbD n != (s.getV y).getLsbD n)) ∧
    RegsSameBut [x] s t ∧ RegsSameBut [x] s u ∧ RegsSameBut [x] s w ∧
    SameBut [.v] s t ∧ SameBut [.v] s u ∧ SameBut [.v] s w

/-- `ADD Vx, Vy`: the sum modulo 256, and VF the carry; with X = F, VF is the carry. The write order is the spec's decision
D4 (R71, R78; log entry 16). -/
def Obligations.AddWithCarry : Prop :=
  ∀ (x y : Reg) (s : State), ∃ t, exec (.addReg x y) s = .next t ∧
    (x ≠ vf → (t.getV x).toNat = ((s.getV x).toNat + (s.getV y).toNat) % 256) ∧
    (t.getV vf).toNat = (if 255 < (s.getV x).toNat + (s.getV y).toNat then 1 else 0) ∧
    RegsSameBut [x, vf] s t ∧ SameBut [.v] s t

/-- `SUB` and `SUBN`: the difference modulo 256, and VF the not-borrow; equal operands do not borrow; with X = F, VF is the
flag. The write order is the spec's decision D4 (R71, R79, R80; log entry 16). -/
def Obligations.SubtractWithNotBorrow : Prop :=
  ∀ (x y : Reg) (s : State), ∃ t u, exec (.sub x y) s = .next t ∧ exec (.subn x y) s = .next u ∧
    (x ≠ vf → (t.getV x).toNat = ((s.getV x).toNat + 256 - (s.getV y).toNat) % 256) ∧
    (t.getV vf).toNat = (if (s.getV x).toNat ≥ (s.getV y).toNat then 1 else 0) ∧
    (x ≠ vf → (u.getV x).toNat = ((s.getV y).toNat + 256 - (s.getV x).toNat) % 256) ∧
    (u.getV vf).toNat = (if (s.getV y).toNat ≥ (s.getV x).toNat then 1 else 0) ∧
    RegsSameBut [x, vf] s t ∧ RegsSameBut [x, vf] s u ∧ SameBut [.v] s t ∧ SameBut [.v] s u

/-- `SHR` and `SHL`: the source is Vx or Vy by the open parameter SHIFT_SOURCE; the result is half or twice it modulo 256,
and VF the bit moved out. The source and the write order are the spec's D37 and D4 (R81, R82, R83; log entries 2 and
16). -/
def Obligations.ShiftsByOne : Prop :=
  ∀ (x y : Reg) (s : State) (src : Byte), src = (if s.params.shiftSource = .vx then s.getV x else s.getV y) →
    ∃ t u, exec (.shr x y) s = .next t ∧ exec (.shl x y) s = .next u ∧
    (x ≠ vf → (t.getV x).toNat = src.toNat / 2) ∧ (t.getV vf).toNat = src.toNat % 2 ∧
    (x ≠ vf → (u.getV x).toNat = src.toNat * 2 % 256) ∧ (u.getV vf).toNat = src.toNat / 128 ∧
    RegsSameBut [x, vf] s t ∧ RegsSameBut [x, vf] s u ∧ SameBut [.v] s t ∧ SameBut [.v] s u

/-! ### Address register and memory (43_index_memory.md) -/

/-- R85, `ANNN`: I takes NNN, its upper four bits clear. -/
def Obligations.LoadIndexRegister : Prop :=
  ∀ (nnn : Addr) (s : State), (encode (.ldI nnn)).toNat = 0xA000 + nnn.toNat ∧
    ∃ t, exec (.ldI nnn) s = .next t ∧ t.i.toNat = nnn.toNat ∧ SameBut [.i] s t

/-- `ADD I, Vx` is modulo 65536 and writes no flag. The spec's decisions D7 and D39 (R86; log entries 17 and 19). -/
def Obligations.AddToIndexWritesNoFlag : Prop :=
  ∀ (x : Reg) (s : State), ∃ t, exec (.addI x) s = .next t ∧
    t.i.toNat = (s.i.toNat + (s.getV x).toNat) % 65536 ∧ SameBut [.i] s t

/-- `LD F, Vx`: I takes five times a digit up to 15; above 15 the model stops. The stop is the spec's decision D12 (R87; log
entry 14). -/
def Obligations.FontPointerOfDigit : Prop :=
  ∀ (x : Reg) (s : State),
    ((s.getV x).toNat ≤ 15 → ∃ t, exec (.ldF x) s = .next t ∧ t.i.toNat = 5 * (s.getV x).toNat ∧ SameBut [.i] s t) ∧
    (15 < (s.getV x).toNat → exec (.ldF x) s = .fault (.unspecified .fontDigit))

/-- `FX33`: hundreds, tens and units at EA(0), EA(1), EA(2); I and every other byte are unchanged (R88); if some of the three
lies below `0x200`, the model stops before any write. The stop is the spec's decision D13 (R37, log entry 12; its outcome is
log entry 6), and the wrap of the block its decision D28 (R35, log entry 19). The premise is the memory clause of
`State.Inv`. -/
def Obligations.BcdStoresThreeDigits : Prop :=
  ∀ (x : Reg) (s : State), s.mem.wf s.params.font = true → (encode (.bcd x)).toNat = 0xF033 + 256 * x.val ∧
    ((∀ k, k < 3 → 0x200 ≤ (ea s.i k).toNat) → ∃ t, exec (.bcd x) s = .next t ∧
      (t.readByte (ea s.i 0)).toNat = (s.getV x).toNat / 100 ∧
      (t.readByte (ea s.i 1)).toNat = (s.getV x).toNat / 10 % 10 ∧
      (t.readByte (ea s.i 2)).toNat = (s.getV x).toNat % 10 ∧
      BytesSameOutside s.i 3 s t ∧ SameBut [.mem] s t) ∧
    ((∃ k, k < 3 ∧ (ea s.i k).toNat < 0x200) → exec (.bcd x) s = .fault (.unspecified .lowStore))

/-- `FX55`: V0 to Vx at EA(0) to EA(X), then I advances by X + 1 modulo 65536; every other byte is unchanged (R89); if some
byte lies below `0x200`, the model stops before any write. The stop is the spec's decision D13 (R37, log entry 12; its outcome
is log entry 6), and the wrap of the block and of I its decisions D28 and D39 (R35, log entry 19). The premise is the memory
clause of `State.Inv`. -/
def Obligations.StoreRegistersToBlock : Prop :=
  ∀ (x : Reg) (s : State), s.mem.wf s.params.font = true → (encode (.stRegs x)).toNat = 0xF055 + 256 * x.val ∧
    ((∀ k, k ≤ x.val → 0x200 ≤ (ea s.i k).toNat) → ∃ t, exec (.stRegs x) s = .next t ∧
      (∀ r : Reg, r ≤ x → t.readByte (ea s.i r.val) = s.getV r) ∧
      t.i.toNat = (s.i.toNat + x.val + 1) % 65536 ∧ BytesSameOutside s.i (x.val + 1) s t ∧ SameBut [.mem, .i] s t) ∧
    ((∃ k, k ≤ x.val ∧ (ea s.i k).toNat < 0x200) → exec (.stRegs x) s = .fault (.unspecified .lowStore))

/-- R90, `FX65`: V0 to Vx take the bytes at EA(0) to EA(X), then I advances by X + 1 modulo 65536. -/
def Obligations.LoadRegistersFromBlock : Prop :=
  ∀ (x : Reg) (s : State), (encode (.ldRegs x)).toNat = 0xF065 + 256 * x.val ∧ ∃ t, exec (.ldRegs x) s = .next t ∧
    (∀ r : Reg, r ≤ x → t.getV r = s.readByte (ea s.i r.val)) ∧ (∀ r : Reg, x < r → t.getV r = s.getV r) ∧
    t.i.toNat = (s.i.toNat + x.val + 1) % 65536 ∧ SameBut [.v, .i] s t

/-- A block stored and loaded back from the same address, whatever the registers held in between, gives the stored
registers again, and I has advanced by X + 1 after each (DOC §8, W6; R89, R90). -/
def Obligations.StoreThenLoadRestoresRegisters : Prop :=
  ∀ (x : Reg) (s t u : State), s.mem.wf s.params.font = true → exec (.stRegs x) s = .next t →
    (∀ a, u.readByte a = t.readByte a) → u.i = s.i →
    ∃ w, exec (.ldRegs x) u = .next w ∧ (∀ r : Reg, r ≤ x → w.getV r = s.getV r) ∧
      t.i.toNat = (s.i.toNat + x.val + 1) % 65536 ∧ w.i = t.i

/-! ### Random byte (44_random.md) -/

/-- `RND Vx, KK`: the draw under the mask, for every draw; one draw is consumed; a step given the draw `rnd` leaves
`rnd & KK` in Vx. That the draw is an input of the step is the spec's D23 (R91; log entry 3). -/
def Obligations.RandomByteUnderMask : Prop :=
  ∀ (x : Reg) (kk : Byte) (s : State),
    (∃ t, exec (.rnd x kk) s = .next t ∧ t.getV x = s.nextDraw &&& kk ∧
      (∀ d ds, s.draws = d :: ds → s.nextDraw = d ∧ t.draws = ds ∧ t.drawIndex = s.drawIndex) ∧
      (s.draws = [] → t.draws = [] ∧ t.drawIndex = s.drawIndex + 1) ∧
      RegsSameBut [x] s t ∧ SameBut [.v, .draws, .drawIndex] s t) ∧
    (∀ rnd, s.faulted = false → s.pc.toNat ≤ 0xFFE → decode s.fetchWord = .ok (.rnd x kk) →
      ∃ t, s.stepWith rnd = .next ⟨.ok, t⟩ ∧ t.getV x = rnd &&& kk)

/-! ### Display (45_display.md) -/

/-- R92, `00E0`: every pixel is 0 and nothing else changes. -/
def Obligations.ClearDisplay : Prop :=
  encode .cls = 0x00E0 ∧
  ∀ s : State, ∃ t, exec .cls s = .next t ∧ (∀ row col, pixelAt t.disp row col = false) ∧ SameBut [.disp] s t

/-- `DRW Vx, Vy, N` in closed form: a pixel is flipped when a sprite bit 1 lands on it, at
`((VY + r) mod 32, (VX + j) mod 64)` for bit `7 - j` of the byte at `(I + r) mod 4096`, and VF is 1 when some flipped pixel
was 1; operands are read before VF is written; height 0 stops. The order and the stop are the spec's decisions D10 and D9
(R93; log entries 15 and 21). -/
def Obligations.DrawXorsTheSprite : Prop :=
  ∀ (x y : Reg) (n : Nat) (s : State), n < 16 →
    (n = 0 → exec (.drw x y n) s = .fault (.unspecified .spriteHeightZero)) ∧
    (n ≠ 0 → ∃ t, exec (.drw x y n) s = .next t ∧
      (∀ (row : Fin 32) (col : Fin 64), pixelAt t.disp row col ≠ pixelAt s.disp row col ↔
        ∃ r j, r < n ∧ j < 8 ∧ row.val = ((s.getV y).toNat + r) % 32 ∧ col.val = ((s.getV x).toNat + j) % 64 ∧
          (s.readByte (ea s.i r)).getLsbD (7 - j) = true) ∧
      (t.getV vf = 1 ∧ (∃ row col, pixelAt s.disp row col = true ∧ pixelAt t.disp row col = false) ∨
        t.getV vf = 0 ∧ ∀ row col, pixelAt s.disp row col = true → pixelAt t.disp row col = true) ∧
      RegsSameBut [vf] s t ∧ SameBut [.v, .disp] s t)

/-- The same sprite drawn twice at the same place restores the display; from a blank display VF is 0 the first time and 1
the second time, if the sprite has a bit set (DOC §8, W3; R93). -/
def Obligations.DrawTwiceRestoresTheDisplay : Prop :=
  ∀ (x y : Reg) (n : Nat) (s t : State), n < 16 → exec (.drw x y n) s = .next t → t.getV x = s.getV x →
    t.getV y = s.getV y →
    ∃ u, exec (.drw x y n) t = .next u ∧ (∀ row col, pixelAt u.disp row col = pixelAt s.disp row col) ∧
      ((∀ row col, pixelAt s.disp row col = false) → t.getV vf = 0 ∧
        ((∃ r, r < n ∧ s.readByte (ea s.i r) ≠ 0) → u.getV vf = 1))

/-! ### Keys and timers (46_keys_timers.md) -/

/-- `SKP` and `SKNP`: PC advances by 2 when key `V[X]` is pressed, or is not; a key index above 15 stops. The stop is the
spec's decision D11 (R94, R95; log entry 13). -/
def Obligations.SkipsOnKey : Prop :=
  ∀ (x : Reg) (s : State),
    (∀ k : Fin 16, (s.getV x).toNat = k.val → ∃ t u, exec (.skp x) s = .next t ∧ exec (.sknp x) s = .next u ∧
      t.pc.toNat = (if s.keyAt k = true then (s.pc.toNat + 2) % 65536 else s.pc.toNat) ∧
      u.pc.toNat = (if s.keyAt k = false then (s.pc.toNat + 2) % 65536 else s.pc.toNat) ∧
      SameBut [.pc] s t ∧ SameBut [.pc] s u) ∧
    (15 < (s.getV x).toNat → exec (.skp x) s = .fault (.unspecified .keyIndex) ∧
      exec (.sknp x) s = .fault (.unspecified .keyIndex))

/-- `LD Vx, K`: with a key pressed, Vx takes the lowest pressed key's number; with none, PC goes back to the instruction and
nothing else changes. A level and not an edge is the spec's decision D24 (R96; log entry 22). -/
def Obligations.KeyWaitTakesTheLowestKey : Prop :=
  ∀ (x : Reg) (s : State),
    (∀ k : Fin 16, s.keyAt k = true → (∀ j : Fin 16, j < k → s.keyAt j = false) →
      ∃ t, exec (.ldK x) s = .next t ∧ (t.getV x).toNat = k.val ∧ RegsSameBut [x] s t ∧ SameBut [.v] s t) ∧
    ((∀ k, s.keyAt k = false) →
      ∃ t, exec (.ldK x) s = .next t ∧ t.pc.toNat = (s.pc.toNat + 65534) % 65536 ∧ SameBut [.pc] s t)

/-- R97 (`FX07`), R98 (`FX15`): Vx takes DT; DT takes Vx. -/
def Obligations.DelayTimerMoves : Prop :=
  ∀ (x : Reg) (s : State), (encode (.ldVxDt x)).toNat = 0xF007 + 256 * x.val ∧
    (encode (.ldDt x)).toNat = 0xF015 + 256 * x.val ∧ ∃ t u, exec (.ldVxDt x) s = .next t ∧ exec (.ldDt x) s = .next u ∧
    t.getV x = s.dt ∧ RegsSameBut [x] s t ∧ SameBut [.v] s t ∧ u.dt = s.getV x ∧ SameBut [.dt] s u

/-- `LD ST, Vx`: ST takes Vx, the pending boot cue is dropped, and a write of 0 ends the run; a non-zero write keeps the
latch. The cue state is the spec's decision D18 (R99, R114; log entry 26). -/
def Obligations.SoundTimerWriteEndsTheBootCue : Prop :=
  ∀ (x : Reg) (s : State), ∃ t, exec (.ldSt x) s = .next t ∧ t.st = s.getV x ∧ t.bootCuePending = false ∧
    (s.getV x = 0 → t.cueLatched = false) ∧ (s.getV x ≠ 0 → t.cueLatched = s.cueLatched) ∧
    SameBut [.st, .bootCuePending, .cueLatched] s t

/-! ### The host interface (60_exceptions.md, 70_reset_and_hazards.md) -/

/-- `tick_timers` on a core that is not faulted: both timers fall by one and stop at 0; the cue is Fatal on the first
decrement while the boot cue is pending, Normal when the decrement takes ST across the threshold in a run without a cue,
None otherwise. The cues are the spec's decision D18 (R20, R109, R111, R112, R113; log entry 26). -/
def Obligations.TickFollowsTheTimerRule : Prop :=
  ∀ s : State, s.faulted = false → ∃ cue t, hostCall .tickTimers s = .next (.cue cue, t) ∧
    t.dt.toNat = s.dt.toNat - 1 ∧ t.st.toNat = s.st.toNat - 1 ∧ t.toneCue = cue ∧
    (cue = .fatal ↔ s.st ≠ 0 ∧ s.bootCuePending = true) ∧
    (cue = .normal ↔ s.bootCuePending = false ∧ s.cueLatched = false ∧
      s.st.toNat = s.params.cueThreshold.toNat + 1) ∧
    (t.bootCuePending = true ↔ s.bootCuePending = true ∧ cue ≠ .fatal) ∧
    (t.cueLatched = true ↔ t.st ≠ 0 ∧ (s.cueLatched = true ∨ cue ≠ .none)) ∧
    SameBut [.dt, .st, .bootCuePending, .cueLatched, .toneCue] s t

/-- From every state, whatever calls the host makes in whatever order (ticks, steps, `set_keys`, `load_program`, accessors), at
most one tick of them emits a cue, as long as no call is `reset` and no step executes `LD ST, Vx` (R113
"at-most-once-per-countdown-run"). The spec's decision D18 (log entry 26). -/
def Obligations.AtMostOneCuePerRun : Prop :=
  ∀ (ops : List HostOp) (s t : State) (rs : List HostResult), runKeepsSoundRun ops s = true →
    hostRun ops s = .next (rs, t) → (rs.filter HostResult.isCue).length ≤ 1

/-- `load_program`: a program of 1 to 3584 bytes is copied to `0x200` and nothing else changes; an empty or too large one
changes nothing; a faulted core loads too. A failed load's unchanged state is the spec's decision D19 (R123; log entry
27). -/
def Obligations.LoadProgramCopiesVerbatim : Prop :=
  ∀ (p : List Byte) (s : State), s.mem.wf s.params.font = true →
    (p.length = 0 → hostCall (.loadProgram p) s = .next (.load .emptyProgram, s)) ∧
    (3584 < p.length → hostCall (.loadProgram p) s = .next (.load .programTooLarge, s)) ∧
    (0 < p.length → p.length ≤ 3584 → ∃ t, hostCall (.loadProgram p) s = .next (.load .ok, t) ∧
      (∀ k, k < p.length → some (t.readByte (BitVec.ofNat 12 (0x200 + k))) = p[k]?) ∧
      (∀ a : Addr, a.toNat < 0x200 ∨ 0x200 + p.length ≤ a.toNat → t.readByte a = s.readByte a) ∧ SameBut [.mem] s t)

/-- `reset` gives every field its value of R28, whatever the state before; ST and the boot cue by the open parameter
ST_RESET. The values DOC does not list are the spec's decisions D14 and D18, and the model keeps parameters and draws (R28,
R122; log entries 1, 2, 4, 26, 29). -/
def Obligations.ResetGivesTheResetValues : Prop :=
  ∀ s : State, ∃ t, hostCall .reset s = .next (.none, t) ∧ t.params = s.params ∧
    t.draws = s.draws ∧ t.drawIndex = s.drawIndex ∧
    (∀ a : Addr, t.readByte a = if h : a.toNat < 0x50 then s.params.font[a.toNat] else 0) ∧ (∀ r, t.getV r = 0) ∧ t.i = 0 ∧
    t.pc = 0x200 ∧ t.sp = 0 ∧ (∀ j, t.stackAt j = 0) ∧ t.dt = 0 ∧ t.st = s.params.stReset ∧
    (∀ row col, pixelAt t.disp row col = false) ∧ (∀ k, t.keyAt k = false) ∧ t.faulted = false ∧ t.faultCause = none ∧
    t.cycles = 0 ∧ (t.bootCuePending = true ↔ 0 < s.params.stReset.toNat) ∧ t.cueLatched = false ∧ t.toneCue = .none

/-- An instruction placed by `withFetchWord` is the one the very next step runs, from every state with a canonical memory
(the host's interface, log entry 30). -/
def Obligations.PlacedWordRunsNext : Prop :=
  ∀ (s : State) (w : Nat) (i : Instr), s.mem.wf s.params.font = true → w < 65536 → decodeTableWord 16 w = some i →
    step (s.withFetchWord 16 w) = stateOf (executeDecoded i (s.withFetchWord 16 w).advancePc)
end

