-- ==== Sys2Proof/Laws/HostState.lean ====
section
/-! SUPPORT. One lemma per field per update that a host operation makes. -/

namespace Sys2Proof.Machine

/-! ### `State.setKeys` -/

@[simp] theorem State.setKeys_mem (s : State) (k : Keys) : (s.setKeys k).mem = s.mem := rfl
@[simp] theorem State.setKeys_v (s : State) (k : Keys) : (s.setKeys k).v = s.v := rfl
@[simp] theorem State.setKeys_i (s : State) (k : Keys) : (s.setKeys k).i = s.i := rfl
@[simp] theorem State.setKeys_pc (s : State) (k : Keys) : (s.setKeys k).pc = s.pc := rfl
@[simp] theorem State.setKeys_sp (s : State) (k : Keys) : (s.setKeys k).sp = s.sp := rfl
@[simp] theorem State.setKeys_stack (s : State) (k : Keys) : (s.setKeys k).stack = s.stack := rfl
@[simp] theorem State.setKeys_dt (s : State) (k : Keys) : (s.setKeys k).dt = s.dt := rfl
@[simp] theorem State.setKeys_st (s : State) (k : Keys) : (s.setKeys k).st = s.st := rfl
@[simp] theorem State.setKeys_disp (s : State) (k : Keys) : (s.setKeys k).disp = s.disp := rfl
@[simp] theorem State.setKeys_key (s : State) (k : Keys) : (s.setKeys k).key = k := rfl
@[simp] theorem State.setKeys_faulted (s : State) (k : Keys) : (s.setKeys k).faulted = s.faulted := rfl
@[simp] theorem State.setKeys_faultCause (s : State) (k : Keys) : (s.setKeys k).faultCause = s.faultCause := rfl
@[simp] theorem State.setKeys_cycles (s : State) (k : Keys) : (s.setKeys k).cycles = s.cycles := rfl
@[simp] theorem State.setKeys_bootCuePending (s : State) (k : Keys) : (s.setKeys k).bootCuePending = s.bootCuePending := rfl
@[simp] theorem State.setKeys_cueLatched (s : State) (k : Keys) : (s.setKeys k).cueLatched = s.cueLatched := rfl
@[simp] theorem State.setKeys_toneCue (s : State) (k : Keys) : (s.setKeys k).toneCue = s.toneCue := rfl
@[simp] theorem State.setKeys_params (s : State) (k : Keys) : (s.setKeys k).params = s.params := rfl
@[simp] theorem State.setKeys_draws (s : State) (k : Keys) : (s.setKeys k).draws = s.draws := rfl
@[simp] theorem State.setKeys_drawIndex (s : State) (k : Keys) : (s.setKeys k).drawIndex = s.drawIndex := rfl

/-! ### `State.copyProgram` -/

@[simp] theorem State.copyProgram_mem (s : State) (p : List Byte) : (s.copyProgram p).mem = writeBytes s.params.font s.mem progBase 0 p := rfl
@[simp] theorem State.copyProgram_v (s : State) (p : List Byte) : (s.copyProgram p).v = s.v := rfl
@[simp] theorem State.copyProgram_i (s : State) (p : List Byte) : (s.copyProgram p).i = s.i := rfl
@[simp] theorem State.copyProgram_pc (s : State) (p : List Byte) : (s.copyProgram p).pc = s.pc := rfl
@[simp] theorem State.copyProgram_sp (s : State) (p : List Byte) : (s.copyProgram p).sp = s.sp := rfl
@[simp] theorem State.copyProgram_stack (s : State) (p : List Byte) : (s.copyProgram p).stack = s.stack := rfl
@[simp] theorem State.copyProgram_dt (s : State) (p : List Byte) : (s.copyProgram p).dt = s.dt := rfl
@[simp] theorem State.copyProgram_st (s : State) (p : List Byte) : (s.copyProgram p).st = s.st := rfl
@[simp] theorem State.copyProgram_disp (s : State) (p : List Byte) : (s.copyProgram p).disp = s.disp := rfl
@[simp] theorem State.copyProgram_key (s : State) (p : List Byte) : (s.copyProgram p).key = s.key := rfl
@[simp] theorem State.copyProgram_faulted (s : State) (p : List Byte) : (s.copyProgram p).faulted = s.faulted := rfl
@[simp] theorem State.copyProgram_faultCause (s : State) (p : List Byte) : (s.copyProgram p).faultCause = s.faultCause := rfl
@[simp] theorem State.copyProgram_cycles (s : State) (p : List Byte) : (s.copyProgram p).cycles = s.cycles := rfl
@[simp] theorem State.copyProgram_bootCuePending (s : State) (p : List Byte) : (s.copyProgram p).bootCuePending = s.bootCuePending := rfl
@[simp] theorem State.copyProgram_cueLatched (s : State) (p : List Byte) : (s.copyProgram p).cueLatched = s.cueLatched := rfl
@[simp] theorem State.copyProgram_toneCue (s : State) (p : List Byte) : (s.copyProgram p).toneCue = s.toneCue := rfl
@[simp] theorem State.copyProgram_params (s : State) (p : List Byte) : (s.copyProgram p).params = s.params := rfl
@[simp] theorem State.copyProgram_draws (s : State) (p : List Byte) : (s.copyProgram p).draws = s.draws := rfl
@[simp] theorem State.copyProgram_drawIndex (s : State) (p : List Byte) : (s.copyProgram p).drawIndex = s.drawIndex := rfl

/-! ### `State.tickRunning` -/

@[simp] theorem State.tickRunning_mem (s : State) : s.tickRunning.mem = s.mem := rfl
@[simp] theorem State.tickRunning_v (s : State) : s.tickRunning.v = s.v := rfl
@[simp] theorem State.tickRunning_i (s : State) : s.tickRunning.i = s.i := rfl
@[simp] theorem State.tickRunning_pc (s : State) : s.tickRunning.pc = s.pc := rfl
@[simp] theorem State.tickRunning_sp (s : State) : s.tickRunning.sp = s.sp := rfl
@[simp] theorem State.tickRunning_stack (s : State) : s.tickRunning.stack = s.stack := rfl
@[simp] theorem State.tickRunning_dt (s : State) : s.tickRunning.dt = decTimer s.dt := rfl
@[simp] theorem State.tickRunning_st (s : State) : s.tickRunning.st = decTimer s.st := rfl
@[simp] theorem State.tickRunning_disp (s : State) : s.tickRunning.disp = s.disp := rfl
@[simp] theorem State.tickRunning_key (s : State) : s.tickRunning.key = s.key := rfl
@[simp] theorem State.tickRunning_faulted (s : State) : s.tickRunning.faulted = s.faulted := rfl
@[simp] theorem State.tickRunning_faultCause (s : State) : s.tickRunning.faultCause = s.faultCause := rfl
@[simp] theorem State.tickRunning_cycles (s : State) : s.tickRunning.cycles = s.cycles := rfl
@[simp] theorem State.tickRunning_bootCuePending (s : State) : s.tickRunning.bootCuePending = (s.bootCuePending && decide (s.tickCue ≠ .fatal)) := rfl
@[simp] theorem State.tickRunning_cueLatched (s : State) : s.tickRunning.cueLatched = ((s.cueLatched || decide (s.tickCue ≠ .none)) && decide (decTimer s.st ≠ 0)) := rfl
@[simp] theorem State.tickRunning_toneCue (s : State) : s.tickRunning.toneCue = s.tickCue := rfl
@[simp] theorem State.tickRunning_params (s : State) : s.tickRunning.params = s.params := rfl
@[simp] theorem State.tickRunning_draws (s : State) : s.tickRunning.draws = s.draws := rfl
@[simp] theorem State.tickRunning_drawIndex (s : State) : s.tickRunning.drawIndex = s.drawIndex := rfl

end Sys2Proof.Machine
end

