-- ==== Sys2Proof/Laws/Memory.lean ====
section
/-! SUPPORT. The laws of memory: a read after a write, and the canonical form kept by every write. -/

namespace Sys2Proof.Machine

variable {font : Font}

@[simp] theorem lookupByte_nil (a : Nat) : lookupByte font [] a = resetByte font a := rfl

theorem canonicalFrom_cons {lo k : Nat} {v : Byte} {m : Memory} :
    canonicalFrom font lo ((k, v) :: m) = true ↔
      lo ≤ k ∧ k < 4096 ∧ v ≠ resetByte font k ∧ canonicalFrom font (k + 1) m = true := by
  simp [canonicalFrom, and_assoc]

theorem canonicalFrom_mono {lo hi : Nat} {m : Memory} (h : canonicalFrom font hi m = true) (hle : lo ≤ hi) :
    canonicalFrom font lo m = true := by
  cases m with
  | nil => rfl
  | cons kv m =>
    obtain ⟨h1, h2⟩ := canonicalFrom_cons.1 h
    exact canonicalFrom_cons.2 ⟨by omega, h2⟩

/-- Below its first possible address a canonical memory reads as the reset contents. -/
theorem lookupByte_below {lo a : Nat} {m : Memory} (h : canonicalFrom font lo m = true) (ha : a < lo) :
    lookupByte font m a = resetByte font a := by
  induction m generalizing lo with
  | nil => rfl
  | cons kv m ih =>
    obtain ⟨h1, _, _, h4⟩ := canonicalFrom_cons.1 h
    rw [lookupByte, if_neg (by omega), ih h4 (by omega)]

theorem lookupByte_insertByte {lo : Nat} {m : Memory} (h : canonicalFrom font lo m = true) (a c : Nat) (b : Byte) :
    lookupByte font (insertByte font m a b) c = if c = a then b else lookupByte font m c := by
  induction m generalizing lo with
  | nil =>
    unfold insertByte
    by_cases hb : b = resetByte font a <;> by_cases hc : c = a <;> simp [lookupByte, hb, hc]
  | cons kv m ih =>
    obtain ⟨k, v⟩ := kv
    obtain ⟨_, _, _, h4⟩ := canonicalFrom_cons.1 h
    unfold insertByte
    by_cases h1 : a < k
    · have hr := lookupByte_below h4 (show a < k + 1 by omega)
      have hne : a ≠ k := by omega
      by_cases hb : b = resetByte font a <;> by_cases hc : c = a <;> simp [lookupByte, h1, hb, hc, hne, hr]
    · by_cases h2 : a = k
      · subst h2
        have hr := lookupByte_below h4 (show a < a + 1 by omega)
        by_cases hb : b = resetByte font a <;> by_cases hc : c = a <;> simp [lookupByte, hb, hc, hr]
      · by_cases hc : c = a
        · subst hc
          simp [lookupByte, h1, h2, ih h4]
        · simp [lookupByte, h1, h2, ih h4, hc]

theorem canonicalFrom_insertByte {lo : Nat} {m : Memory} (h : canonicalFrom font lo m = true) (a : Nat) (b : Byte)
    (hlo : lo ≤ a) (ha : a < 4096) : canonicalFrom font lo (insertByte font m a b) = true := by
  induction m generalizing lo with
  | nil =>
    unfold insertByte
    by_cases hb : b = resetByte font a <;> simp [canonicalFrom, hb, hlo, ha]
  | cons kv m ih =>
    obtain ⟨k, v⟩ := kv
    obtain ⟨h1, h2, h3, h4⟩ := canonicalFrom_cons.1 h
    unfold insertByte
    by_cases hak : a < k
    · by_cases hb : b = resetByte font a
      · simpa [hak, hb] using h
      · simp only [hak, hb, if_true, if_false]
        exact canonicalFrom_cons.2 ⟨hlo, ha, hb, canonicalFrom_cons.2 ⟨by omega, h2, h3, h4⟩⟩
    · by_cases hk : a = k
      · subst hk
        by_cases hb : b = resetByte font a
        · simpa [hb] using canonicalFrom_mono h4 (by omega)
        · simp only [lt_irrefl, hb, if_true, if_false]
          exact canonicalFrom_cons.2 ⟨hlo, ha, hb, h4⟩
      · simp only [hak, hk, if_false]
        exact canonicalFrom_cons.2 ⟨h1, h2, h3, ih h4 (by omega)⟩

/-- A read after a write gives the byte written at that address and the old byte at every other. -/
theorem Memory.read_write (m : Memory) (a c : Addr) (b : Byte) (h : m.wf font = true) :
    (m.write font a b).read font c = if c = a then b else m.read font c := by
  have := lookupByte_insertByte (lo := 0) h a.toNat c.toNat b
  simp only [Memory.read, Memory.write, this, BitVec.toNat_inj]

/-- A write keeps the canonical form. -/
theorem Memory.wf_write (m : Memory) (a : Addr) (b : Byte) (h : m.wf font = true) : (m.write font a b).wf font = true :=
  canonicalFrom_insertByte h a.toNat b (Nat.zero_le _) a.isLt

/-- Memory at reset is canonical. -/
@[simp] theorem Memory.wf_nil : Memory.wf [] font = true := rfl

end Sys2Proof.Machine
end

