-- ==== Sys2Proof/Laws/State.lean ====
section
/-! SUPPORT. One lemma per field per update of the state, so that no later proof unfolds a record update. -/

namespace Sys2Proof.Machine

/-! ### `State.setV` -/

@[simp] theorem State.setV_mem (s : State) (r : Reg) (b : Byte) : (s.setV r b).mem = s.mem := rfl
@[simp] theorem State.setV_v (s : State) (r : Reg) (b : Byte) : (s.setV r b).v = s.v.set r b := rfl
@[simp] theorem State.setV_i (s : State) (r : Reg) (b : Byte) : (s.setV r b).i = s.i := rfl
@[simp] theorem State.setV_pc (s : State) (r : Reg) (b : Byte) : (s.setV r b).pc = s.pc := rfl
@[simp] theorem State.setV_sp (s : State) (r : Reg) (b : Byte) : (s.setV r b).sp = s.sp := rfl
@[simp] theorem State.setV_stack (s : State) (r : Reg) (b : Byte) : (s.setV r b).stack = s.stack := rfl
@[simp] theorem State.setV_dt (s : State) (r : Reg) (b : Byte) : (s.setV r b).dt = s.dt := rfl
@[simp] theorem State.setV_st (s : State) (r : Reg) (b : Byte) : (s.setV r b).st = s.st := rfl
@[simp] theorem State.setV_disp (s : State) (r : Reg) (b : Byte) : (s.setV r b).disp = s.disp := rfl
@[simp] theorem State.setV_key (s : State) (r : Reg) (b : Byte) : (s.setV r b).key = s.key := rfl
@[simp] theorem State.setV_faulted (s : State) (r : Reg) (b : Byte) : (s.setV r b).faulted = s.faulted := rfl
@[simp] theorem State.setV_faultCause (s : State) (r : Reg) (b : Byte) : (s.setV r b).faultCause = s.faultCause := rfl
@[simp] theorem State.setV_cycles (s : State) (r : Reg) (b : Byte) : (s.setV r b).cycles = s.cycles := rfl
@[simp] theorem State.setV_bootCuePending (s : State) (r : Reg) (b : Byte) : (s.setV r b).bootCuePending = s.bootCuePending := rfl
@[simp] theorem State.setV_cueLatched (s : State) (r : Reg) (b : Byte) : (s.setV r b).cueLatched = s.cueLatched := rfl
@[simp] theorem State.setV_toneCue (s : State) (r : Reg) (b : Byte) : (s.setV r b).toneCue = s.toneCue := rfl
@[simp] theorem State.setV_params (s : State) (r : Reg) (b : Byte) : (s.setV r b).params = s.params := rfl
@[simp] theorem State.setV_draws (s : State) (r : Reg) (b : Byte) : (s.setV r b).draws = s.draws := rfl
@[simp] theorem State.setV_drawIndex (s : State) (r : Reg) (b : Byte) : (s.setV r b).drawIndex = s.drawIndex := rfl

/-! ### `State.setI` -/

@[simp] theorem State.setI_mem (s : State) (w : Word) : (s.setI w).mem = s.mem := rfl
@[simp] theorem State.setI_v (s : State) (w : Word) : (s.setI w).v = s.v := rfl
@[simp] theorem State.setI_i (s : State) (w : Word) : (s.setI w).i = w := rfl
@[simp] theorem State.setI_pc (s : State) (w : Word) : (s.setI w).pc = s.pc := rfl
@[simp] theorem State.setI_sp (s : State) (w : Word) : (s.setI w).sp = s.sp := rfl
@[simp] theorem State.setI_stack (s : State) (w : Word) : (s.setI w).stack = s.stack := rfl
@[simp] theorem State.setI_dt (s : State) (w : Word) : (s.setI w).dt = s.dt := rfl
@[simp] theorem State.setI_st (s : State) (w : Word) : (s.setI w).st = s.st := rfl
@[simp] theorem State.setI_disp (s : State) (w : Word) : (s.setI w).disp = s.disp := rfl
@[simp] theorem State.setI_key (s : State) (w : Word) : (s.setI w).key = s.key := rfl
@[simp] theorem State.setI_faulted (s : State) (w : Word) : (s.setI w).faulted = s.faulted := rfl
@[simp] theorem State.setI_faultCause (s : State) (w : Word) : (s.setI w).faultCause = s.faultCause := rfl
@[simp] theorem State.setI_cycles (s : State) (w : Word) : (s.setI w).cycles = s.cycles := rfl
@[simp] theorem State.setI_bootCuePending (s : State) (w : Word) : (s.setI w).bootCuePending = s.bootCuePending := rfl
@[simp] theorem State.setI_cueLatched (s : State) (w : Word) : (s.setI w).cueLatched = s.cueLatched := rfl
@[simp] theorem State.setI_toneCue (s : State) (w : Word) : (s.setI w).toneCue = s.toneCue := rfl
@[simp] theorem State.setI_params (s : State) (w : Word) : (s.setI w).params = s.params := rfl
@[simp] theorem State.setI_draws (s : State) (w : Word) : (s.setI w).draws = s.draws := rfl
@[simp] theorem State.setI_drawIndex (s : State) (w : Word) : (s.setI w).drawIndex = s.drawIndex := rfl

/-! ### `State.setPc` -/

@[simp] theorem State.setPc_mem (s : State) (w : Word) : (s.setPc w).mem = s.mem := rfl
@[simp] theorem State.setPc_v (s : State) (w : Word) : (s.setPc w).v = s.v := rfl
@[simp] theorem State.setPc_i (s : State) (w : Word) : (s.setPc w).i = s.i := rfl
@[simp] theorem State.setPc_pc (s : State) (w : Word) : (s.setPc w).pc = w := rfl
@[simp] theorem State.setPc_sp (s : State) (w : Word) : (s.setPc w).sp = s.sp := rfl
@[simp] theorem State.setPc_stack (s : State) (w : Word) : (s.setPc w).stack = s.stack := rfl
@[simp] theorem State.setPc_dt (s : State) (w : Word) : (s.setPc w).dt = s.dt := rfl
@[simp] theorem State.setPc_st (s : State) (w : Word) : (s.setPc w).st = s.st := rfl
@[simp] theorem State.setPc_disp (s : State) (w : Word) : (s.setPc w).disp = s.disp := rfl
@[simp] theorem State.setPc_key (s : State) (w : Word) : (s.setPc w).key = s.key := rfl
@[simp] theorem State.setPc_faulted (s : State) (w : Word) : (s.setPc w).faulted = s.faulted := rfl
@[simp] theorem State.setPc_faultCause (s : State) (w : Word) : (s.setPc w).faultCause = s.faultCause := rfl
@[simp] theorem State.setPc_cycles (s : State) (w : Word) : (s.setPc w).cycles = s.cycles := rfl
@[simp] theorem State.setPc_bootCuePending (s : State) (w : Word) : (s.setPc w).bootCuePending = s.bootCuePending := rfl
@[simp] theorem State.setPc_cueLatched (s : State) (w : Word) : (s.setPc w).cueLatched = s.cueLatched := rfl
@[simp] theorem State.setPc_toneCue (s : State) (w : Word) : (s.setPc w).toneCue = s.toneCue := rfl
@[simp] theorem State.setPc_params (s : State) (w : Word) : (s.setPc w).params = s.params := rfl
@[simp] theorem State.setPc_draws (s : State) (w : Word) : (s.setPc w).draws = s.draws := rfl
@[simp] theorem State.setPc_drawIndex (s : State) (w : Word) : (s.setPc w).drawIndex = s.drawIndex := rfl

/-! ### `State.setDt` -/

@[simp] theorem State.setDt_mem (s : State) (b : Byte) : (s.setDt b).mem = s.mem := rfl
@[simp] theorem State.setDt_v (s : State) (b : Byte) : (s.setDt b).v = s.v := rfl
@[simp] theorem State.setDt_i (s : State) (b : Byte) : (s.setDt b).i = s.i := rfl
@[simp] theorem State.setDt_pc (s : State) (b : Byte) : (s.setDt b).pc = s.pc := rfl
@[simp] theorem State.setDt_sp (s : State) (b : Byte) : (s.setDt b).sp = s.sp := rfl
@[simp] theorem State.setDt_stack (s : State) (b : Byte) : (s.setDt b).stack = s.stack := rfl
@[simp] theorem State.setDt_dt (s : State) (b : Byte) : (s.setDt b).dt = b := rfl
@[simp] theorem State.setDt_st (s : State) (b : Byte) : (s.setDt b).st = s.st := rfl
@[simp] theorem State.setDt_disp (s : State) (b : Byte) : (s.setDt b).disp = s.disp := rfl
@[simp] theorem State.setDt_key (s : State) (b : Byte) : (s.setDt b).key = s.key := rfl
@[simp] theorem State.setDt_faulted (s : State) (b : Byte) : (s.setDt b).faulted = s.faulted := rfl
@[simp] theorem State.setDt_faultCause (s : State) (b : Byte) : (s.setDt b).faultCause = s.faultCause := rfl
@[simp] theorem State.setDt_cycles (s : State) (b : Byte) : (s.setDt b).cycles = s.cycles := rfl
@[simp] theorem State.setDt_bootCuePending (s : State) (b : Byte) : (s.setDt b).bootCuePending = s.bootCuePending := rfl
@[simp] theorem State.setDt_cueLatched (s : State) (b : Byte) : (s.setDt b).cueLatched = s.cueLatched := rfl
@[simp] theorem State.setDt_toneCue (s : State) (b : Byte) : (s.setDt b).toneCue = s.toneCue := rfl
@[simp] theorem State.setDt_params (s : State) (b : Byte) : (s.setDt b).params = s.params := rfl
@[simp] theorem State.setDt_draws (s : State) (b : Byte) : (s.setDt b).draws = s.draws := rfl
@[simp] theorem State.setDt_drawIndex (s : State) (b : Byte) : (s.setDt b).drawIndex = s.drawIndex := rfl

/-! ### `State.setSt` -/

@[simp] theorem State.setSt_mem (s : State) (b : Byte) : (s.setSt b).mem = s.mem := rfl
@[simp] theorem State.setSt_v (s : State) (b : Byte) : (s.setSt b).v = s.v := rfl
@[simp] theorem State.setSt_i (s : State) (b : Byte) : (s.setSt b).i = s.i := rfl
@[simp] theorem State.setSt_pc (s : State) (b : Byte) : (s.setSt b).pc = s.pc := rfl
@[simp] theorem State.setSt_sp (s : State) (b : Byte) : (s.setSt b).sp = s.sp := rfl
@[simp] theorem State.setSt_stack (s : State) (b : Byte) : (s.setSt b).stack = s.stack := rfl
@[simp] theorem State.setSt_dt (s : State) (b : Byte) : (s.setSt b).dt = s.dt := rfl
@[simp] theorem State.setSt_st (s : State) (b : Byte) : (s.setSt b).st = b := rfl
@[simp] theorem State.setSt_disp (s : State) (b : Byte) : (s.setSt b).disp = s.disp := rfl
@[simp] theorem State.setSt_key (s : State) (b : Byte) : (s.setSt b).key = s.key := rfl
@[simp] theorem State.setSt_faulted (s : State) (b : Byte) : (s.setSt b).faulted = s.faulted := rfl
@[simp] theorem State.setSt_faultCause (s : State) (b : Byte) : (s.setSt b).faultCause = s.faultCause := rfl
@[simp] theorem State.setSt_cycles (s : State) (b : Byte) : (s.setSt b).cycles = s.cycles := rfl
@[simp] theorem State.setSt_bootCuePending (s : State) (b : Byte) : (s.setSt b).bootCuePending = s.bootCuePending := rfl
@[simp] theorem State.setSt_cueLatched (s : State) (b : Byte) : (s.setSt b).cueLatched = s.cueLatched := rfl
@[simp] theorem State.setSt_toneCue (s : State) (b : Byte) : (s.setSt b).toneCue = s.toneCue := rfl
@[simp] theorem State.setSt_params (s : State) (b : Byte) : (s.setSt b).params = s.params := rfl
@[simp] theorem State.setSt_draws (s : State) (b : Byte) : (s.setSt b).draws = s.draws := rfl
@[simp] theorem State.setSt_drawIndex (s : State) (b : Byte) : (s.setSt b).drawIndex = s.drawIndex := rfl

/-! ### `State.setDisp` -/

@[simp] theorem State.setDisp_mem (s : State) (d : Display) : (s.setDisp d).mem = s.mem := rfl
@[simp] theorem State.setDisp_v (s : State) (d : Display) : (s.setDisp d).v = s.v := rfl
@[simp] theorem State.setDisp_i (s : State) (d : Display) : (s.setDisp d).i = s.i := rfl
@[simp] theorem State.setDisp_pc (s : State) (d : Display) : (s.setDisp d).pc = s.pc := rfl
@[simp] theorem State.setDisp_sp (s : State) (d : Display) : (s.setDisp d).sp = s.sp := rfl
@[simp] theorem State.setDisp_stack (s : State) (d : Display) : (s.setDisp d).stack = s.stack := rfl
@[simp] theorem State.setDisp_dt (s : State) (d : Display) : (s.setDisp d).dt = s.dt := rfl
@[simp] theorem State.setDisp_st (s : State) (d : Display) : (s.setDisp d).st = s.st := rfl
@[simp] theorem State.setDisp_disp (s : State) (d : Display) : (s.setDisp d).disp = d := rfl
@[simp] theorem State.setDisp_key (s : State) (d : Display) : (s.setDisp d).key = s.key := rfl
@[simp] theorem State.setDisp_faulted (s : State) (d : Display) : (s.setDisp d).faulted = s.faulted := rfl
@[simp] theorem State.setDisp_faultCause (s : State) (d : Display) : (s.setDisp d).faultCause = s.faultCause := rfl
@[simp] theorem State.setDisp_cycles (s : State) (d : Display) : (s.setDisp d).cycles = s.cycles := rfl
@[simp] theorem State.setDisp_bootCuePending (s : State) (d : Display) : (s.setDisp d).bootCuePending = s.bootCuePending := rfl
@[simp] theorem State.setDisp_cueLatched (s : State) (d : Display) : (s.setDisp d).cueLatched = s.cueLatched := rfl
@[simp] theorem State.setDisp_toneCue (s : State) (d : Display) : (s.setDisp d).toneCue = s.toneCue := rfl
@[simp] theorem State.setDisp_params (s : State) (d : Display) : (s.setDisp d).params = s.params := rfl
@[simp] theorem State.setDisp_draws (s : State) (d : Display) : (s.setDisp d).draws = s.draws := rfl
@[simp] theorem State.setDisp_drawIndex (s : State) (d : Display) : (s.setDisp d).drawIndex = s.drawIndex := rfl

/-! ### `State.push` -/

@[simp] theorem State.push_mem (s : State) (w : Word) : (s.push w).mem = s.mem := rfl
@[simp] theorem State.push_v (s : State) (w : Word) : (s.push w).v = s.v := rfl
@[simp] theorem State.push_i (s : State) (w : Word) : (s.push w).i = s.i := rfl
@[simp] theorem State.push_pc (s : State) (w : Word) : (s.push w).pc = s.pc := rfl
@[simp] theorem State.push_sp (s : State) (w : Word) : (s.push w).sp = s.sp + 1 := rfl
@[simp] theorem State.push_stack (s : State) (w : Word) : (s.push w).stack = s.stack.set (s.sp.toFin : Fin 16) w := rfl
@[simp] theorem State.push_dt (s : State) (w : Word) : (s.push w).dt = s.dt := rfl
@[simp] theorem State.push_st (s : State) (w : Word) : (s.push w).st = s.st := rfl
@[simp] theorem State.push_disp (s : State) (w : Word) : (s.push w).disp = s.disp := rfl
@[simp] theorem State.push_key (s : State) (w : Word) : (s.push w).key = s.key := rfl
@[simp] theorem State.push_faulted (s : State) (w : Word) : (s.push w).faulted = s.faulted := rfl
@[simp] theorem State.push_faultCause (s : State) (w : Word) : (s.push w).faultCause = s.faultCause := rfl
@[simp] theorem State.push_cycles (s : State) (w : Word) : (s.push w).cycles = s.cycles := rfl
@[simp] theorem State.push_bootCuePending (s : State) (w : Word) : (s.push w).bootCuePending = s.bootCuePending := rfl
@[simp] theorem State.push_cueLatched (s : State) (w : Word) : (s.push w).cueLatched = s.cueLatched := rfl
@[simp] theorem State.push_toneCue (s : State) (w : Word) : (s.push w).toneCue = s.toneCue := rfl
@[simp] theorem State.push_params (s : State) (w : Word) : (s.push w).params = s.params := rfl
@[simp] theorem State.push_draws (s : State) (w : Word) : (s.push w).draws = s.draws := rfl
@[simp] theorem State.push_drawIndex (s : State) (w : Word) : (s.push w).drawIndex = s.drawIndex := rfl

/-! ### `State.dropTop` -/

@[simp] theorem State.dropTop_mem (s : State) : s.dropTop.mem = s.mem := rfl
@[simp] theorem State.dropTop_v (s : State) : s.dropTop.v = s.v := rfl
@[simp] theorem State.dropTop_i (s : State) : s.dropTop.i = s.i := rfl
@[simp] theorem State.dropTop_pc (s : State) : s.dropTop.pc = s.pc := rfl
@[simp] theorem State.dropTop_sp (s : State) : s.dropTop.sp = s.sp + 15 := rfl
@[simp] theorem State.dropTop_stack (s : State) : s.dropTop.stack = s.stack := rfl
@[simp] theorem State.dropTop_dt (s : State) : s.dropTop.dt = s.dt := rfl
@[simp] theorem State.dropTop_st (s : State) : s.dropTop.st = s.st := rfl
@[simp] theorem State.dropTop_disp (s : State) : s.dropTop.disp = s.disp := rfl
@[simp] theorem State.dropTop_key (s : State) : s.dropTop.key = s.key := rfl
@[simp] theorem State.dropTop_faulted (s : State) : s.dropTop.faulted = s.faulted := rfl
@[simp] theorem State.dropTop_faultCause (s : State) : s.dropTop.faultCause = s.faultCause := rfl
@[simp] theorem State.dropTop_cycles (s : State) : s.dropTop.cycles = s.cycles := rfl
@[simp] theorem State.dropTop_bootCuePending (s : State) : s.dropTop.bootCuePending = s.bootCuePending := rfl
@[simp] theorem State.dropTop_cueLatched (s : State) : s.dropTop.cueLatched = s.cueLatched := rfl
@[simp] theorem State.dropTop_toneCue (s : State) : s.dropTop.toneCue = s.toneCue := rfl
@[simp] theorem State.dropTop_params (s : State) : s.dropTop.params = s.params := rfl
@[simp] theorem State.dropTop_draws (s : State) : s.dropTop.draws = s.draws := rfl
@[simp] theorem State.dropTop_drawIndex (s : State) : s.dropTop.drawIndex = s.drawIndex := rfl

/-! ### `State.storeBytes` -/

@[simp] theorem State.storeBytes_mem (s : State) (bs : List Byte) : (s.storeBytes bs).mem = writeBytes s.params.font s.mem s.i 0 bs := rfl
@[simp] theorem State.storeBytes_v (s : State) (bs : List Byte) : (s.storeBytes bs).v = s.v := rfl
@[simp] theorem State.storeBytes_i (s : State) (bs : List Byte) : (s.storeBytes bs).i = s.i := rfl
@[simp] theorem State.storeBytes_pc (s : State) (bs : List Byte) : (s.storeBytes bs).pc = s.pc := rfl
@[simp] theorem State.storeBytes_sp (s : State) (bs : List Byte) : (s.storeBytes bs).sp = s.sp := rfl
@[simp] theorem State.storeBytes_stack (s : State) (bs : List Byte) : (s.storeBytes bs).stack = s.stack := rfl
@[simp] theorem State.storeBytes_dt (s : State) (bs : List Byte) : (s.storeBytes bs).dt = s.dt := rfl
@[simp] theorem State.storeBytes_st (s : State) (bs : List Byte) : (s.storeBytes bs).st = s.st := rfl
@[simp] theorem State.storeBytes_disp (s : State) (bs : List Byte) : (s.storeBytes bs).disp = s.disp := rfl
@[simp] theorem State.storeBytes_key (s : State) (bs : List Byte) : (s.storeBytes bs).key = s.key := rfl
@[simp] theorem State.storeBytes_faulted (s : State) (bs : List Byte) : (s.storeBytes bs).faulted = s.faulted := rfl
@[simp] theorem State.storeBytes_faultCause (s : State) (bs : List Byte) : (s.storeBytes bs).faultCause = s.faultCause := rfl
@[simp] theorem State.storeBytes_cycles (s : State) (bs : List Byte) : (s.storeBytes bs).cycles = s.cycles := rfl
@[simp] theorem State.storeBytes_bootCuePending (s : State) (bs : List Byte) : (s.storeBytes bs).bootCuePending = s.bootCuePending := rfl
@[simp] theorem State.storeBytes_cueLatched (s : State) (bs : List Byte) : (s.storeBytes bs).cueLatched = s.cueLatched := rfl
@[simp] theorem State.storeBytes_toneCue (s : State) (bs : List Byte) : (s.storeBytes bs).toneCue = s.toneCue := rfl
@[simp] theorem State.storeBytes_params (s : State) (bs : List Byte) : (s.storeBytes bs).params = s.params := rfl
@[simp] theorem State.storeBytes_draws (s : State) (bs : List Byte) : (s.storeBytes bs).draws = s.draws := rfl
@[simp] theorem State.storeBytes_drawIndex (s : State) (bs : List Byte) : (s.storeBytes bs).drawIndex = s.drawIndex := rfl

/-! ### `State.cueOnWrite` -/

@[simp] theorem State.cueOnWrite_mem (s : State) (b : Byte) : (s.cueOnWrite b).mem = s.mem := rfl
@[simp] theorem State.cueOnWrite_v (s : State) (b : Byte) : (s.cueOnWrite b).v = s.v := rfl
@[simp] theorem State.cueOnWrite_i (s : State) (b : Byte) : (s.cueOnWrite b).i = s.i := rfl
@[simp] theorem State.cueOnWrite_pc (s : State) (b : Byte) : (s.cueOnWrite b).pc = s.pc := rfl
@[simp] theorem State.cueOnWrite_sp (s : State) (b : Byte) : (s.cueOnWrite b).sp = s.sp := rfl
@[simp] theorem State.cueOnWrite_stack (s : State) (b : Byte) : (s.cueOnWrite b).stack = s.stack := rfl
@[simp] theorem State.cueOnWrite_dt (s : State) (b : Byte) : (s.cueOnWrite b).dt = s.dt := rfl
@[simp] theorem State.cueOnWrite_st (s : State) (b : Byte) : (s.cueOnWrite b).st = s.st := rfl
@[simp] theorem State.cueOnWrite_disp (s : State) (b : Byte) : (s.cueOnWrite b).disp = s.disp := rfl
@[simp] theorem State.cueOnWrite_key (s : State) (b : Byte) : (s.cueOnWrite b).key = s.key := rfl
@[simp] theorem State.cueOnWrite_faulted (s : State) (b : Byte) : (s.cueOnWrite b).faulted = s.faulted := rfl
@[simp] theorem State.cueOnWrite_faultCause (s : State) (b : Byte) : (s.cueOnWrite b).faultCause = s.faultCause := rfl
@[simp] theorem State.cueOnWrite_cycles (s : State) (b : Byte) : (s.cueOnWrite b).cycles = s.cycles := rfl
@[simp] theorem State.cueOnWrite_bootCuePending (s : State) (b : Byte) : (s.cueOnWrite b).bootCuePending = false := rfl
@[simp] theorem State.cueOnWrite_cueLatched (s : State) (b : Byte) : (s.cueOnWrite b).cueLatched = (s.cueLatched && decide (b ≠ 0)) := rfl
@[simp] theorem State.cueOnWrite_toneCue (s : State) (b : Byte) : (s.cueOnWrite b).toneCue = s.toneCue := rfl
@[simp] theorem State.cueOnWrite_params (s : State) (b : Byte) : (s.cueOnWrite b).params = s.params := rfl
@[simp] theorem State.cueOnWrite_draws (s : State) (b : Byte) : (s.cueOnWrite b).draws = s.draws := rfl
@[simp] theorem State.cueOnWrite_drawIndex (s : State) (b : Byte) : (s.cueOnWrite b).drawIndex = s.drawIndex := rfl

/-! ### `State.takeFault` -/

@[simp] theorem State.takeFault_mem (s : State) (c : FaultCause) : (s.takeFault c).mem = s.mem := rfl
@[simp] theorem State.takeFault_v (s : State) (c : FaultCause) : (s.takeFault c).v = s.v := rfl
@[simp] theorem State.takeFault_i (s : State) (c : FaultCause) : (s.takeFault c).i = s.i := rfl
@[simp] theorem State.takeFault_pc (s : State) (c : FaultCause) : (s.takeFault c).pc = s.pc := rfl
@[simp] theorem State.takeFault_sp (s : State) (c : FaultCause) : (s.takeFault c).sp = s.sp := rfl
@[simp] theorem State.takeFault_stack (s : State) (c : FaultCause) : (s.takeFault c).stack = s.stack := rfl
@[simp] theorem State.takeFault_dt (s : State) (c : FaultCause) : (s.takeFault c).dt = s.dt := rfl
@[simp] theorem State.takeFault_st (s : State) (c : FaultCause) : (s.takeFault c).st = s.st := rfl
@[simp] theorem State.takeFault_disp (s : State) (c : FaultCause) : (s.takeFault c).disp = s.disp := rfl
@[simp] theorem State.takeFault_key (s : State) (c : FaultCause) : (s.takeFault c).key = s.key := rfl
@[simp] theorem State.takeFault_faulted (s : State) (c : FaultCause) : (s.takeFault c).faulted = true := rfl
@[simp] theorem State.takeFault_faultCause (s : State) (c : FaultCause) : (s.takeFault c).faultCause = some c := rfl
@[simp] theorem State.takeFault_cycles (s : State) (c : FaultCause) : (s.takeFault c).cycles = s.cycles := rfl
@[simp] theorem State.takeFault_bootCuePending (s : State) (c : FaultCause) : (s.takeFault c).bootCuePending = s.bootCuePending := rfl
@[simp] theorem State.takeFault_cueLatched (s : State) (c : FaultCause) : (s.takeFault c).cueLatched = s.cueLatched := rfl
@[simp] theorem State.takeFault_toneCue (s : State) (c : FaultCause) : (s.takeFault c).toneCue = s.toneCue := rfl
@[simp] theorem State.takeFault_params (s : State) (c : FaultCause) : (s.takeFault c).params = s.params := rfl
@[simp] theorem State.takeFault_draws (s : State) (c : FaultCause) : (s.takeFault c).draws = s.draws := rfl
@[simp] theorem State.takeFault_drawIndex (s : State) (c : FaultCause) : (s.takeFault c).drawIndex = s.drawIndex := rfl

/-! ### `State.countCycle` -/

@[simp] theorem State.countCycle_mem (s : State) : s.countCycle.mem = s.mem := rfl
@[simp] theorem State.countCycle_v (s : State) : s.countCycle.v = s.v := rfl
@[simp] theorem State.countCycle_i (s : State) : s.countCycle.i = s.i := rfl
@[simp] theorem State.countCycle_pc (s : State) : s.countCycle.pc = s.pc := rfl
@[simp] theorem State.countCycle_sp (s : State) : s.countCycle.sp = s.sp := rfl
@[simp] theorem State.countCycle_stack (s : State) : s.countCycle.stack = s.stack := rfl
@[simp] theorem State.countCycle_dt (s : State) : s.countCycle.dt = s.dt := rfl
@[simp] theorem State.countCycle_st (s : State) : s.countCycle.st = s.st := rfl
@[simp] theorem State.countCycle_disp (s : State) : s.countCycle.disp = s.disp := rfl
@[simp] theorem State.countCycle_key (s : State) : s.countCycle.key = s.key := rfl
@[simp] theorem State.countCycle_faulted (s : State) : s.countCycle.faulted = s.faulted := rfl
@[simp] theorem State.countCycle_faultCause (s : State) : s.countCycle.faultCause = s.faultCause := rfl
@[simp] theorem State.countCycle_cycles (s : State) : s.countCycle.cycles = s.cycles + 1 := rfl
@[simp] theorem State.countCycle_bootCuePending (s : State) : s.countCycle.bootCuePending = s.bootCuePending := rfl
@[simp] theorem State.countCycle_cueLatched (s : State) : s.countCycle.cueLatched = s.cueLatched := rfl
@[simp] theorem State.countCycle_toneCue (s : State) : s.countCycle.toneCue = s.toneCue := rfl
@[simp] theorem State.countCycle_params (s : State) : s.countCycle.params = s.params := rfl
@[simp] theorem State.countCycle_draws (s : State) : s.countCycle.draws = s.draws := rfl
@[simp] theorem State.countCycle_drawIndex (s : State) : s.countCycle.drawIndex = s.drawIndex := rfl

/-! ### Updates that are compositions -/

@[simp] theorem State.advancePc_eq (s : State) : s.advancePc = s.setPc (s.pc + 2) := rfl

@[simp] theorem State.restorePc_eq (s : State) : s.restorePc = s.setPc (s.pc - 2) := rfl

@[simp] theorem State.advanceI_eq (s : State) (x : Reg) :
    s.advanceI x = s.setI (s.i + BitVec.ofNat 16 (x.val + 1)) := rfl

@[simp] theorem State.setResultAndFlag_eq (s : State) (x : Reg) (r : Byte) (f : Bool) :
    s.setResultAndFlag x r f = (s.setV x r).setV vf (flagByte f) := rfl

@[simp] theorem State.skipIf_true (s : State) : s.skipIf true = s.setPc (s.pc + 2) := rfl

@[simp] theorem State.skipIf_false (s : State) : s.skipIf false = s := rfl

end Sys2Proof.Machine
end

