-- ==== Sys2Proof/Laws/Ops.lean ====
section
/-! SUPPORT. What each shared operation can do, said once: registers, the stack ring, blocks of memory, block loads, the
display and the draw. -/

namespace Sys2Proof.Machine

/-! ### Registers -/

theorem State.getV_setV (s : State) (r q : Reg) (b : Byte) : (s.setV r b).getV q = if q = r then b else s.getV q := by
  simp only [State.getV, State.setV, Fin.getElem_fin, Vector.getElem_set, Fin.ext_iff]
  by_cases h : q.val = r.val
  · simp [h]
  · simp [h, Ne.symm h]

@[simp] theorem State.getV_setV_self (s : State) (r : Reg) (b : Byte) : (s.setV r b).getV r = b := by
  simp [State.getV_setV]

theorem State.getV_congr {s t : State} (h : t.v = s.v) (r : Reg) : t.getV r = s.getV r := by
  simp only [State.getV, h]

/-! ### The stack ring -/

theorem State.stackAt_push (s : State) (w : Word) (j : Nibble) :
    (s.push w).stackAt j = if j = s.sp then w else s.stackAt j := by
  simp only [State.stackAt, State.push, Fin.getElem_fin, Vector.getElem_set, BitVec.val_toFin]
  by_cases h : j = s.sp
  · simp [h]
  · rw [if_neg, if_neg h]
    intro hn
    exact h (BitVec.eq_of_toNat_eq hn.symm)

/-- A pop after a push gives the pushed value back and leaves SP where it was. -/
theorem State.pop_push (s : State) (w : Word) :
    (s.push w).dropTop.sp = s.sp ∧ (s.push w).stackAt (s.push w).dropTop.sp = w := by
  have h : (s.push w).dropTop.sp = s.sp := by
    simp only [State.dropTop_sp, State.push_sp, BitVec.add_assoc]
    exact BitVec.add_zero _
  exact ⟨h, by rw [h, State.stackAt_push, if_pos rfl]⟩

/-! ### Blocks of memory -/

theorem ea_toNat (i : Word) (k : Nat) : (ea i k).toNat = (i.toNat + k) % 4096 := rfl

/-- The addresses of a block of at most 4096 bytes are distinct. -/
theorem ea_inj {i : Word} {j k : Nat} (hj : j < 4096) (hk : k < 4096) (h : ea i j = ea i k) : j = k := by
  have := congrArg BitVec.toNat h
  simp only [ea_toNat] at this
  omega

theorem storesLow_eq_false {i : Word} {n : Nat} :
    storesLow i n = false ↔ ∀ k, k < n → 0x200 ≤ (ea i k).toNat := by
  simp [storesLow]

/-- A block store keeps the canonical form. -/
theorem wf_writeBytes {font : Font} {m : Memory} (h : m.wf font = true) (i : Word) (k : Nat) (bs : List Byte) :
    (writeBytes font m i k bs).wf font = true := by
  induction bs generalizing m k with
  | nil => exact h
  | cons b bs ih => exact ih (Memory.wf_write m _ b h) (k + 1)

/-- Outside its block a block store changes nothing. -/
theorem read_writeBytes_outside {font : Font} {m : Memory} (h : m.wf font = true) (i : Word) (k : Nat) (bs : List Byte) (a : Addr)
    (ha : ∀ j, j < bs.length → ea i (k + j) ≠ a) : (writeBytes font m i k bs).read font a = m.read font a := by
  induction bs generalizing m k with
  | nil => rfl
  | cons b bs ih =>
    rw [writeBytes, ih (Memory.wf_write m _ b h) (k + 1), Memory.read_write _ _ _ _ h, if_neg]
    · exact fun e => ha 0 (by simp) (by simpa using e.symm)
    · intro j hj
      have := ha (j + 1) (by simpa using hj)
      rwa [show k + (j + 1) = k + 1 + j by omega] at this

/-- Byte `j` of a block store is byte `j` of the bytes stored. -/
theorem read_writeBytes_inside {font : Font} {m : Memory} (h : m.wf font = true) (i : Word) (k : Nat) (bs : List Byte) (j : Nat)
    (hj : j < bs.length) (hlen : k + bs.length ≤ 4096) : (writeBytes font m i k bs).read font (ea i (k + j)) = bs[j] := by
  induction bs generalizing m k j with
  | nil => simp at hj
  | cons b bs ih =>
    rw [writeBytes]
    cases j with
    | zero =>
      rw [read_writeBytes_outside (Memory.wf_write m _ b h), Memory.read_write _ _ _ _ h]
      · simp
      · intro j hj e
        simp only [List.length_cons] at hlen
        have := ea_inj (by omega) (by omega) e
        omega
    | succ j =>
      simp only [List.length_cons] at hlen hj
      have := ih (Memory.wf_write m (ea i k) b h) (k + 1) j (by omega) (by omega)
      rw [show k + 1 + j = k + (j + 1) by omega] at this
      simpa using this

/-! ### Block loads -/

theorem mem_regsUpTo (x r : Reg) : r ∈ regsUpTo x ↔ r ≤ x := by
  simp only [regsUpTo, List.mem_filter, decide_eq_true_eq]
  have : r ∈ allRegs := by revert r; decide
  simp [this]

theorem regsUpTo_getElem (x r : Reg) (h : r ≤ x) : (regsUpTo x)[r.val]? = some r := by
  revert x r; decide

theorem regsUpTo_length (x : Reg) : (regsUpTo x).length = x.val + 1 := by
  revert x; decide

@[simp] theorem State.dataByte_setV (s : State) (r : Reg) (b : Byte) (k : Nat) :
    (s.setV r b).dataByte k = s.dataByte k := rfl

/-- A block load gives each listed register its byte of the block and keeps the others and every other part. -/
theorem State.getV_loadRegs (s : State) (rs : List Reg) (q : Reg) :
    (s.loadRegs rs).getV q = if q ∈ rs then s.dataByte q.val else s.getV q := by
  induction rs generalizing s with
  | nil => rfl
  | cons r rs ih =>
    have : s.loadRegs (r :: rs) = (s.setV r (s.dataByte r.val)).loadRegs rs := rfl
    rw [this, ih, State.getV_setV]
    by_cases h1 : q ∈ rs <;> by_cases h2 : q = r <;> simp_all

theorem State.loadRegs_eq (s : State) (rs : List Reg) : s.loadRegs rs = { s with v := (s.loadRegs rs).v } := by
  induction rs generalizing s with
  | nil => rfl
  | cons r rs ih => exact ih (s.setV r (s.dataByte r.val))

/-! ### The random draw -/

theorem State.nextDraw_injected (s : State) (d : Byte) (ds : List Byte) (h : s.draws = d :: ds) : s.nextDraw = d := by
  simp [State.nextDraw, h]

theorem State.consumeDraw_eq (s : State) :
    s.consumeDraw = { s with draws := s.draws.tail, drawIndex := if s.draws = [] then s.drawIndex + 1 else s.drawIndex } := by
  cases s; rename_i draws _; cases draws <;> rfl

/-! ### The display -/

theorem pixelAt_flipPixel (d : Display) (row row' : Fin 32) (col col' : Fin 64) :
    pixelAt (flipPixel d row col) row' col' =
      if row' = row ∧ col' = col then !pixelAt d row col else pixelAt d row' col' := by
  simp only [pixelAt, flipPixel, Fin.getElem_fin, Vector.getElem_set, Fin.ext_iff]
  by_cases hr : row.val = row'.val
  · by_cases hc : col.val = col'.val
    · simp [hr, hc]
    · simp [hr, hc, eq_comm]
  · simp [hr, eq_comm]

@[simp] theorem pixelAt_blankDisplay (row : Fin 32) (col : Fin 64) : pixelAt blankDisplay row col = false := by
  simp [pixelAt, blankDisplay]

end Sys2Proof.Machine
end

