-- ==== Sys2Proof/Laws/Operands.lean ====
section
/-! SUPPORT. What each operand form and each flag computation answers, said once. -/

namespace Sys2Proof.Machine

theorem allRegs_mem (r : Reg) : r ∈ allRegs := by revert r; decide

theorem hexOperand_eq_none {b : Byte} : hexOperand b = none ↔ 15 < b.toNat := by
  simp only [hexOperand]
  split <;> simp <;> omega

theorem hexOperand_eq_some {b : Byte} {k : Fin 16} : hexOperand b = some k ↔ b.toNat = k.val := by
  simp only [hexOperand]
  split
  · simp [Fin.ext_iff]
  · have := k.isLt
    simp
    omega

theorem State.lowestKey_eq_none {s : State} : s.lowestKey = none ↔ ∀ k, s.keyAt k = false := by
  simp only [State.lowestKey, List.find?_eq_none, Bool.not_eq_true]
  exact ⟨fun h k => h k (allRegs_mem k), fun h k _ => h k⟩

/-- The key found is pressed, and no lower one is. -/
theorem State.lowestKey_eq_some {s : State} {k : Reg} (hk : s.keyAt k = true) (hlow : ∀ j < k, s.keyAt j = false) :
    s.lowestKey = some k := by
  have split : ∃ as bs, allRegs = as ++ k :: bs ∧ ∀ j ∈ as, j < k := by
    have : ∀ k : Reg, allRegs = allRegs.take k.val ++ k :: allRegs.drop (k.val + 1) ∧
        ∀ j ∈ allRegs.take k.val, j < k := by decide
    exact ⟨_, _, this k⟩
  obtain ⟨as, bs, heq, has⟩ := split
  refine List.find?_eq_some_iff_append.2 ⟨hk, as, bs, heq, fun j hj => ?_⟩
  simp [hlow j (has j hj)]

theorem zextAddr_toNat (nnn : Addr) : (zextAddr nnn).toNat = nnn.toNat := by
  have := nnn.isLt
  simp only [zextAddr, BitVec.toNat_setWidth]
  omega

theorem glyphAddr_toNat (d : Fin 16) : (glyphAddr d).toNat = 5 * d.val := by
  have := d.isLt
  simp only [glyphAddr, BitVec.toNat_ofNat]
  omega

theorem keyByte_toNat (k : Reg) : (keyByte k).toNat = k.val := by
  have := k.isLt
  simp only [keyByte, BitVec.toNat_ofNat]
  omega

theorem flagByte_toNat (f : Bool) : (flagByte f).toNat = if f then 1 else 0 := by cases f <;> rfl

theorem flagByte_eq_one {f : Bool} : flagByte f = 1 ↔ f = true := by cases f <;> simp [flagByte]

theorem storesLow_eq_true {i : Word} {n : Nat} : storesLow i n = true ↔ ∃ k, k < n ∧ (ea i k).toNat < 0x200 := by
  simp [storesLow]

end Sys2Proof.Machine
end

