-- ==== Sys2Proof/Laws/Cycle.lean ====
section
/-! SUPPORT. What a step can do, said once: the four ways a step answers a next state, and the two ways to reach a decoded
instruction's meaning. -/

namespace Sys2Proof.Machine

/-- A step that answers a next state was of a faulted core, a failed bounds check, an undecodable opcode, or the
completed or awaiting execution of the decoded instruction. -/
theorem stepResult_cases {s : State} {r : StepResult} (h : s.stepResult = .next r) :
    (s.faulted = true ∧ r = ⟨.fault s.faultCause, s⟩) ∨
    (s.faulted = false ∧ s.fetchOutOfBounds = true ∧
      r = ⟨.fault (some .outOfBounds), s.takeFault .outOfBounds⟩) ∨
    (s.faulted = false ∧ s.fetchOutOfBounds = false ∧ (∃ e, decode s.fetchWord = .error e) ∧
      r = ⟨.fault (some .undecodableOpcode), s.advancePc.takeFault .undecodableOpcode⟩) ∨
    (∃ i t, s.faulted = false ∧ s.fetchOutOfBounds = false ∧ decode s.fetchWord = .ok i ∧
      exec i s.advancePc = .next t ∧ r = finishStep (awaits i s.advancePc) t) := by
  unfold State.stepResult at h
  by_cases hf : s.faulted = true
  · rw [if_pos hf] at h
    exact .inl ⟨hf, by simpa using h.symm⟩
  · rw [if_neg hf] at h
    rw [Bool.not_eq_true] at hf
    by_cases hb : s.fetchOutOfBounds = true
    · rw [if_pos hb] at h
      exact .inr (.inl ⟨hf, hb, by simpa using h.symm⟩)
    · rw [if_neg hb] at h
      rw [Bool.not_eq_true] at hb
      cases hd : decode s.fetchWord with
      | error e =>
        simp only [hd] at h
        exact .inr (.inr (.inl ⟨hf, hb, ⟨e, rfl⟩, by simpa using h.symm⟩))
      | ok i =>
        simp only [hd, executeDecoded] at h
        cases hx : exec i s.advancePc with
        | next t =>
          simp only [hx] at h
          exact .inr (.inr (.inr ⟨i, t, hf, hb, rfl, hx, by simpa using h.symm⟩))
        | fault e => simp only [hx, reduceCtorEq] at h
        | refused e => simp only [hx, reduceCtorEq] at h

/-- The step of a core that fetches a decodable opcode is the execution of its instruction. -/
theorem stepResult_decoded {s : State} {i : Instr} (hf : s.faulted = false) (hb : s.fetchOutOfBounds = false)
    (hd : decode s.fetchWord = .ok i) : s.stepResult = executeDecoded i s.advancePc := by
  simp [State.stepResult, hf, hb, hd]

@[simp] theorem finishStep_true (t : State) : finishStep true t = ⟨.awaitingInput, t⟩ := rfl

@[simp] theorem finishStep_false (t : State) : finishStep false t = ⟨.ok, t.countCycle⟩ := rfl

@[simp] theorem stateOf_next (r : StepResult) : stateOf (.next r) = .next r.state := rfl

theorem step_eq_next {s t : State} : step s = .next t ↔ ∃ r, s.stepResult = .next r ∧ r.state = t := by
  unfold step
  cases s.stepResult <;> simp [stateOf]

/-- Only `FX0A` can await (R59). -/
theorem awaits_eq_true {i : Instr} {s : State} (h : awaits i s = true) : ∃ x, i = .ldK x := by
  cases i <;> simp_all [awaits]

theorem awaits_iff {i : Instr} {s : State} : awaits i s = true ↔ (∃ x, i = .ldK x) ∧ ∀ k, s.keyAt k = false := by
  constructor
  · intro h
    obtain ⟨x, rfl⟩ := awaits_eq_true h
    exact ⟨⟨x, rfl⟩, State.lowestKey_eq_none.1 (by simpa [awaits] using h)⟩
  · rintro ⟨⟨x, rfl⟩, h⟩
    simpa [awaits] using State.lowestKey_eq_none.2 h

theorem State.fetchOutOfBounds_eq_false {s : State} : s.fetchOutOfBounds = false ↔ s.pc.toNat ≤ 0xFFE := by
  simp [State.fetchOutOfBounds]

theorem State.fetchOutOfBounds_eq_true {s : State} : s.fetchOutOfBounds = true ↔ 0xFFE < s.pc.toNat := by
  simp [State.fetchOutOfBounds]

end Sys2Proof.Machine
end

