-- ==== Sys2Proof/Laws/Display.lean ====
section
/-! SUPPORT. The draw in closed form: each pixel is XORed with the sprite's bit there, once, and the collision says whether
some covered pixel was 1 (45_display.md R93). -/

namespace Sys2Proof.Machine

theorem spriteCol_inj {x0 : Byte} {j k : Nat} (hj : j < 64) (hk : k < 64) (h : spriteCol x0 j = spriteCol x0 k) :
    j = k := by
  have := congrArg Fin.val h
  simp only [spriteCol, Fin.val_ofNat] at this
  omega

theorem spriteRow_inj {y0 : Byte} {r q : Nat} (hr : r < 32) (hq : q < 32) (h : spriteRow y0 r = spriteRow y0 q) :
    r = q := by
  have := congrArg Fin.val h
  simp only [spriteRow, Fin.val_ofNat] at this
  omega

theorem pixelAt_blitBit (row row' : Fin 32) (col col' : Fin 64) (bit : Bool) (b : Blit) :
    pixelAt (blitBit row col bit b).disp row' col' =
      (pixelAt b.disp row' col' ^^ (decide (row' = row) && decide (col' = col) && bit)) := by
  cases bit
  · simp [blitBit]
  · simp only [blitBit, if_true, pixelAt_flipPixel]
    by_cases hr : row' = row <;> by_cases hc : col' = col <;> simp [hr, hc]

theorem hit_blitBit (row : Fin 32) (col : Fin 64) (bit : Bool) (b : Blit) :
    (blitBit row col bit b).hit = (b.hit || (bit && pixelAt b.disp row col)) := by
  cases bit <;> simp [blitBit]

/-- The first `m` bits of a sprite byte. -/
theorem blitBits_spec (x0 : Byte) (row : Fin 32) (byte : Byte) (b : Blit) (m : Nat) (hm : m ≤ 8) :
    (∀ row' col', pixelAt ((List.range m).foldl
        (fun acc j => blitBit row (spriteCol x0 j) (byte.getLsbD (7 - j)) acc) b).disp row' col' =
      (pixelAt b.disp row' col' ^^ (List.range m).any fun j =>
        decide (row' = row) && decide (col' = spriteCol x0 j) && byte.getLsbD (7 - j))) ∧
    ((List.range m).foldl (fun acc j => blitBit row (spriteCol x0 j) (byte.getLsbD (7 - j)) acc) b).hit =
      (b.hit || (List.range m).any fun j => byte.getLsbD (7 - j) && pixelAt b.disp row (spriteCol x0 j)) := by
  induction m with
  | zero => simp
  | succ m ih =>
    obtain ⟨ihp, ihh⟩ := ih (by omega)
    have fresh : ((List.range m).any fun j => decide (spriteCol x0 m = spriteCol x0 j) &&
        byte.getLsbD (7 - j)) = false := by
      simp only [List.any_eq_false, List.mem_range]
      intro j hj
      have : spriteCol x0 m ≠ spriteCol x0 j := fun h => by
        have := spriteCol_inj (by omega) (by omega) h
        omega
      simp [this]
    refine ⟨fun row' col' => ?_, ?_⟩
    · simp only [List.range_succ, List.foldl_append, List.foldl_cons, List.foldl_nil, pixelAt_blitBit, ihp,
        List.any_append, List.any_cons, List.any_nil, Bool.or_false]
      by_cases h : row' = row ∧ col' = spriteCol x0 m
      · obtain ⟨rfl, rfl⟩ := h
        simp only [decide_true, Bool.true_and, fresh, Bool.xor_false, Bool.false_or]
      · have : (decide (row' = row) && decide (col' = spriteCol x0 m) && byte.getLsbD (7 - m)) = false := by
          simp only [Bool.and_eq_false_iff, decide_eq_false_iff_not]
          exact .inl (by tauto)
        simp only [this, Bool.xor_false, Bool.or_false]
    · simp only [List.range_succ, List.foldl_append, List.foldl_cons, List.foldl_nil, hit_blitBit, ihh, ihp,
        decide_true, Bool.true_and, fresh, List.any_append, List.any_cons, List.any_nil, Bool.or_false, Bool.xor_false,
        Bool.or_assoc]

/-- The whole draw: pixels and collision. -/
theorem blitRows_spec (byteAt : Nat → Byte) (x0 y0 : Byte) (n : Nat) (hn : n ≤ 32) (b : Blit) :
    (∀ row col, pixelAt (blitRows byteAt x0 y0 n b).disp row col =
      (pixelAt b.disp row col ^^ spriteCovers byteAt x0 y0 n row col)) ∧
    (blitRows byteAt x0 y0 n b).hit =
      (b.hit || (List.range n).any fun r => (List.range 8).any fun j =>
        (byteAt r).getLsbD (7 - j) && pixelAt b.disp (spriteRow y0 r) (spriteCol x0 j)) := by
  induction n with
  | zero => simp [blitRows, spriteCovers]
  | succ n ih =>
    obtain ⟨ihp, ihh⟩ := ih (by omega)
    have hstep : blitRows byteAt x0 y0 (n + 1) b =
        blitByte x0 (spriteRow y0 n) (byteAt n) (blitRows byteAt x0 y0 n b) := by
      simp [blitRows, List.range_succ]
    obtain ⟨hp, hh⟩ := blitBits_spec x0 (spriteRow y0 n) (byteAt n) (blitRows byteAt x0 y0 n b) 8 (le_refl 8)
    have fresh : ∀ col, spriteCovers byteAt x0 y0 n (spriteRow y0 n) col = false := by
      intro col
      simp only [spriteCovers, List.any_eq_false, List.mem_range]
      intro r hr
      have : spriteRow y0 n ≠ spriteRow y0 r := fun h => by
        have := spriteRow_inj (by omega) (by omega) h
        omega
      simp [this]
    rw [hstep]
    refine ⟨fun row col => ?_, ?_⟩
    · rw [blitByte, hp, ihp]
      simp only [spriteCovers, List.range_succ (n := n), List.any_append, List.any_cons, List.any_nil, Bool.or_false]
      by_cases h : row = spriteRow y0 n
      · subst h
        have := fresh col
        simp only [spriteCovers] at this
        rw [this]
        simp
      · have none : ((List.range 8).any fun _ => false) = false := by decide
        simp [h, none]
    · rw [blitByte, hh, ihh]
      simp only [List.range_succ (n := n), List.any_append, List.any_cons, List.any_nil, Bool.or_false, Bool.or_assoc,
        ihp, fresh, Bool.xor_false]

/-- The draw of R93 on the state's display. -/
theorem State.blit_spec (s : State) (x0 y0 : Byte) (n : Nat) (hn : n ≤ 32) :
    (∀ row col, pixelAt (s.blit x0 y0 n).disp row col =
      (pixelAt s.disp row col ^^ spriteCovers s.dataByte x0 y0 n row col)) ∧
    (s.blit x0 y0 n).hit = (List.range n).any fun r => (List.range 8).any fun j =>
        (s.dataByte r).getLsbD (7 - j) && pixelAt s.disp (spriteRow y0 r) (spriteCol x0 j) := by
  have h := blitRows_spec s.dataByte x0 y0 n hn ⟨s.disp, false⟩
  exact ⟨h.1, by simpa [State.blit] using h.2⟩

end Sys2Proof.Machine
end

