-- ==== Sys2Proof/Laws/Encoding.lean ====
section
/-! SUPPORT. The fields of an opcode built from its fields, and such an opcode under the masks of the table. -/

namespace Sys2Proof

/-! ### Well-formedness -/

theorem wellFormed_drw (x y : Reg) (n : Nat) : (Instr.drw x y n).WellFormed ↔ n < 16 := by
  simp [Instr.WellFormed, Instr.wellFormed]

/-! ### The fields read back what was put there -/

@[simp] theorem opGroup_wordNNN (g : Nibble) (nnn : Addr) : opGroup (wordNNN g nnn) = g := by
  apply BitVec.eq_of_getLsbD_eq
  intro i hi
  interval_cases i <;> simp [wordNNN, opGroup]

@[simp] theorem opNNN_wordNNN (g : Nibble) (nnn : Addr) : opNNN (wordNNN g nnn) = nnn := by
  apply BitVec.eq_of_getLsbD_eq
  intro i hi
  interval_cases i <;> simp [wordNNN, opNNN]

@[simp] theorem opGroup_wordXKK (g : Nibble) (x : Reg) (kk : Byte) : opGroup (wordXKK g x kk) = g := by
  apply BitVec.eq_of_getLsbD_eq
  intro i hi
  interval_cases i <;> simp [wordXKK, opGroup]

@[simp] theorem opX_wordXKK (g : Nibble) (x : Reg) (kk : Byte) : opX (wordXKK g x kk) = x := by
  suffices h : (wordXKK g x kk).extractLsb' 8 4 = (BitVec.ofFin x : Nibble) by rw [opX, h]
  apply BitVec.eq_of_getLsbD_eq
  intro i hi
  interval_cases i <;> simp [wordXKK]

@[simp] theorem opKK_wordXKK (g : Nibble) (x : Reg) (kk : Byte) : opKK (wordXKK g x kk) = kk := by
  apply BitVec.eq_of_getLsbD_eq
  intro i hi
  interval_cases i <;> simp [wordXKK, opKK]

@[simp] theorem opGroup_wordXYN (g : Nibble) (x y : Reg) (n : Nibble) : opGroup (wordXYN g x y n) = g := by
  apply BitVec.eq_of_getLsbD_eq
  intro i hi
  interval_cases i <;> simp [wordXYN, opGroup]

@[simp] theorem opX_wordXYN (g : Nibble) (x y : Reg) (n : Nibble) : opX (wordXYN g x y n) = x := by
  suffices h : (wordXYN g x y n).extractLsb' 8 4 = (BitVec.ofFin x : Nibble) by rw [opX, h]
  apply BitVec.eq_of_getLsbD_eq
  intro i hi
  interval_cases i <;> simp [wordXYN]

@[simp] theorem opY_wordXYN (g : Nibble) (x y : Reg) (n : Nibble) : opY (wordXYN g x y n) = y := by
  suffices h : (wordXYN g x y n).extractLsb' 4 4 = (BitVec.ofFin y : Nibble) by rw [opY, h]
  apply BitVec.eq_of_getLsbD_eq
  intro i hi
  interval_cases i <;> simp [wordXYN]

@[simp] theorem opN_wordXYN (g : Nibble) (x y : Reg) (n : Nibble) : opN (wordXYN g x y n) = n := by
  apply BitVec.eq_of_getLsbD_eq
  intro i hi
  interval_cases i <;> simp [wordXYN, opN]

/-! ### Under the masks of the table -/

theorem wordNNN_and (g : Nibble) (nnn : Addr) : wordNNN g nnn &&& 0xF000#16 = g.setWidth 16 <<< 12 := by
  apply BitVec.eq_of_getLsbD_eq
  intro i hi
  interval_cases i <;> simp [wordNNN]

theorem wordXKK_and_group (g : Nibble) (x : Reg) (kk : Byte) : wordXKK g x kk &&& 0xF000#16 = g.setWidth 16 <<< 12 := by
  apply BitVec.eq_of_getLsbD_eq
  intro i hi
  interval_cases i <;> simp [wordXKK]

theorem wordXKK_and_outer (g : Nibble) (x : Reg) (kk : Byte) : wordXKK g x kk &&& 0xF0FF#16 = g.setWidth 16 <<< 12 ||| kk.setWidth 16 := by
  apply BitVec.eq_of_getLsbD_eq
  intro i hi
  interval_cases i <;> simp [wordXKK]

theorem wordXYN_and_group (g : Nibble) (x y : Reg) (n : Nibble) : wordXYN g x y n &&& 0xF000#16 = g.setWidth 16 <<< 12 := by
  apply BitVec.eq_of_getLsbD_eq
  intro i hi
  interval_cases i <;> simp [wordXYN]

theorem wordXYN_and_outer (g : Nibble) (x y : Reg) (n : Nibble) : wordXYN g x y n &&& 0xF00F#16 = g.setWidth 16 <<< 12 ||| n.setWidth 16 := by
  apply BitVec.eq_of_getLsbD_eq
  intro i hi
  interval_cases i <;> simp [wordXYN]

/-! ### Opcodes as numbers -/

/-- A field above a smaller number: the bits do not meet, so the two add. -/
theorem shiftLeft_or_of_lt {b k : Nat} (a : Nat) (h : b < 2 ^ k) : a <<< k ||| b = a * 2 ^ k + b := by
  rw [← Nat.shiftLeft_add_eq_or_of_lt h, Nat.shiftLeft_eq]

/-- A field placed in an opcode where it fits, as a number. -/
theorem toNat_placed {w k : Nat} (v : BitVec w) (h : w + k ≤ 16) :
    (v.setWidth 16 <<< k).toNat = v.toNat <<< k := by
  have h1 : v.toNat < 2 ^ 16 := lt_of_lt_of_le v.isLt (Nat.pow_le_pow_right (by omega) (by omega))
  have h2 : v.toNat <<< k < 2 ^ 16 := by
    rw [Nat.shiftLeft_eq]
    calc v.toNat * 2 ^ k < 2 ^ w * 2 ^ k := Nat.mul_lt_mul_of_pos_right v.isLt (Nat.two_pow_pos k)
      _ = 2 ^ (w + k) := (Nat.pow_add ..).symm
      _ ≤ 2 ^ 16 := Nat.pow_le_pow_right (by omega) h
  rw [BitVec.toNat_shiftLeft, BitVec.toNat_setWidth, Nat.mod_eq_of_lt h1, Nat.mod_eq_of_lt h2]

theorem toNat_regNibble (r : Reg) : (BitVec.ofFin r : Nibble).toNat = r.val := rfl

theorem wordNNN_toNat (g : Nibble) (nnn : Addr) : (wordNNN g nnn).toNat = 4096 * g.toNat + nnn.toNat := by
  have hn := nnn.isLt
  rw [wordNNN, BitVec.toNat_or, toNat_placed g (by omega), BitVec.toNat_setWidth, Nat.mod_eq_of_lt (by omega),
    shiftLeft_or_of_lt _ (by omega)]
  omega

theorem wordXKK_toNat (g : Nibble) (x : Reg) (kk : Byte) :
    (wordXKK g x kk).toNat = 4096 * g.toNat + 256 * x.val + kk.toNat := by
  have hx := x.isLt
  have hk := kk.isLt
  rw [wordXKK, BitVec.toNat_or, BitVec.toNat_or, toNat_placed g (by omega), toNat_placed _ (by omega),
    BitVec.toNat_setWidth, Nat.mod_eq_of_lt (by omega), Nat.or_assoc, shiftLeft_or_of_lt (k := 8) _ (by omega),
    toNat_regNibble x, shiftLeft_or_of_lt _ (by omega)]
  omega

theorem wordXYN_toNat (g : Nibble) (x y : Reg) (n : Nibble) :
    (wordXYN g x y n).toNat = 4096 * g.toNat + 256 * x.val + 16 * y.val + n.toNat := by
  have hx := x.isLt
  have hy := y.isLt
  have hn := n.isLt
  rw [wordXYN, BitVec.toNat_or, BitVec.toNat_or, BitVec.toNat_or, toNat_placed g (by omega), toNat_placed _ (by omega),
    toNat_placed _ (by omega), BitVec.toNat_setWidth, Nat.mod_eq_of_lt (by omega), Nat.or_assoc, Nat.or_assoc,
    toNat_regNibble x, toNat_regNibble y, shiftLeft_or_of_lt (k := 4) _ (by omega),
    shiftLeft_or_of_lt (k := 8) _ (by omega), shiftLeft_or_of_lt _ (by omega)]
  omega

/-! ### Opcodes as two bytes -/

@[simp] theorem wordOfBytes_high_low (op : Word) : wordOfBytes (highByte op) (lowByte op) = op := by
  apply BitVec.eq_of_getLsbD_eq
  intro i hi
  interval_cases i <;> simp [wordOfBytes, highByte, lowByte]

@[simp] theorem highByte_wordOfBytes (hi lo : Byte) : highByte (wordOfBytes hi lo) = hi := by
  apply BitVec.eq_of_getLsbD_eq
  intro i hi
  interval_cases i <;> simp [wordOfBytes, highByte]

@[simp] theorem lowByte_wordOfBytes (hi lo : Byte) : lowByte (wordOfBytes hi lo) = lo := by
  apply BitVec.eq_of_getLsbD_eq
  intro i hi
  interval_cases i <;> simp [wordOfBytes, lowByte]

end Sys2Proof
end

