-- ==== Sys2Proof/Laws/Frames.lean ====
section
/-! SUPPORT. The frame of each shared operation, in the terms claims use: what it can change, and that it changes nothing
else. -/

namespace Sys2Proof.Machine

theorem SameBut.refl (ps : List Part) (s : State) : SameBut ps s s := by
  intro p _
  cases p <;> simp [Part.Same]

theorem SameBut.mono {ps qs : List Part} {s t : State} (h : SameBut ps s t) (hsub : ps ⊆ qs) : SameBut qs s t :=
  fun p hp => h p fun hmem => hp (hsub hmem)

theorem Part.Same.trans {p : Part} {s t u : State} (h1 : p.Same s t) (h2 : p.Same t u) : p.Same s u := by
  cases p <;> simp_all [Part.Same]

theorem SameBut.trans {ps : List Part} {s t u : State} (h1 : SameBut ps s t) (h2 : SameBut ps t u) :
    SameBut ps s u := fun p hp => (h1 p hp).trans (h2 p hp)

theorem sameBut_setV (s : State) (r : Reg) (b : Byte) : SameBut [.v] s (s.setV r b) := by
  intro p hp
  cases p <;> simp_all [Part.Same, State.readByte, State.stackAt, State.keyAt]

theorem sameBut_setI (s : State) (w : Word) : SameBut [.i] s (s.setI w) := by
  intro p hp
  cases p <;> simp_all [Part.Same, State.readByte, State.getV, State.stackAt, State.keyAt]

theorem sameBut_setPc (s : State) (w : Word) : SameBut [.pc] s (s.setPc w) := by
  intro p hp
  cases p <;> simp_all [Part.Same, State.readByte, State.getV, State.stackAt, State.keyAt]

theorem sameBut_setDt (s : State) (b : Byte) : SameBut [.dt] s (s.setDt b) := by
  intro p hp
  cases p <;> simp_all [Part.Same, State.readByte, State.getV, State.stackAt, State.keyAt]

theorem sameBut_setSt (s : State) (b : Byte) : SameBut [.st] s (s.setSt b) := by
  intro p hp
  cases p <;> simp_all [Part.Same, State.readByte, State.getV, State.stackAt, State.keyAt]

theorem sameBut_setDisp (s : State) (d : Display) : SameBut [.disp] s (s.setDisp d) := by
  intro p hp
  cases p <;> simp_all [Part.Same, State.readByte, State.getV, State.stackAt, State.keyAt]

theorem sameBut_push (s : State) (w : Word) : SameBut [.stack, .sp] s (s.push w) := by
  intro p hp
  cases p <;> simp_all [Part.Same, State.readByte, State.getV, State.keyAt]

theorem sameBut_dropTop (s : State) : SameBut [.sp] s s.dropTop := by
  intro p hp
  cases p <;> simp_all [Part.Same, State.readByte, State.getV, State.stackAt, State.keyAt]

theorem sameBut_storeBytes (s : State) (bs : List Byte) : SameBut [.mem] s (s.storeBytes bs) := by
  intro p hp
  cases p <;> simp_all [Part.Same, State.getV, State.stackAt, State.keyAt]

theorem sameBut_loadRegs (s : State) (rs : List Reg) : SameBut [.v] s (s.loadRegs rs) := by
  rw [State.loadRegs_eq]
  intro p hp
  cases p <;> simp_all [Part.Same, State.readByte, State.stackAt, State.keyAt]

theorem sameBut_consumeDraw (s : State) : SameBut [.draws, .drawIndex] s s.consumeDraw := by
  rw [State.consumeDraw_eq]
  intro p hp
  cases p <;> simp_all [Part.Same, State.readByte, State.getV, State.stackAt, State.keyAt]

theorem sameBut_cueOnWrite (s : State) (b : Byte) : SameBut [.bootCuePending, .cueLatched] s (s.cueOnWrite b) := by
  intro p hp
  cases p <;> simp_all [Part.Same, State.readByte, State.getV, State.stackAt, State.keyAt]

theorem sameBut_takeFault (s : State) (c : FaultCause) : SameBut [.faulted, .faultCause] s (s.takeFault c) := by
  intro p hp
  cases p <;> simp_all [Part.Same, State.readByte, State.getV, State.stackAt, State.keyAt]

theorem sameBut_countCycle (s : State) : SameBut [.cycles] s s.countCycle := by
  intro p hp
  cases p <;> simp_all [Part.Same, State.readByte, State.getV, State.stackAt, State.keyAt]

theorem sameBut_skipIf (s : State) (c : Bool) : SameBut [.pc] s (s.skipIf c) := by
  cases c
  · exact SameBut.refl _ s
  · exact sameBut_setPc s _

end Sys2Proof.Machine
end

