-- ==== Sys2Proof/Laws/HostRuns.lean ====
section
/-! SUPPORT. What a sequence of host calls, a step with a draw and a timer's decrement can do, said once. -/

namespace Sys2Proof.Machine

theorem hostRun_nil (s : State) : hostRun [] s = .next ([], s) := rfl

/-- A sequence that answers a next state made its first call, then the rest of the calls from the state after it. -/
theorem hostRun_cons_eq_next {op : HostOp} {ops : List HostOp} {s u : State} {rs : List HostResult} :
    hostRun (op :: ops) s = .next (rs, u) ↔
      ∃ r t rs', hostCall op s = .next (r, t) ∧ hostRun ops t = .next (rs', u) ∧ rs = r :: rs' := by
  constructor
  · intro h
    simp only [hostRun] at h
    split at h
    · rename_i r t h1
      split at h
      · rename_i rs' v h2
        simp only [Host.Outcome.next.injEq, Prod.mk.injEq] at h
        obtain ⟨rfl, rfl⟩ := h
        exact ⟨r, t, rs', h1, h2, rfl⟩
      all_goals simp at h
    all_goals simp at h
  · rintro ⟨r, t, rs', h1, h2, rfl⟩
    simp [hostRun, h1, h2]

/-- A step with a draw is the step of the state that holds this draw alone, the injected draws put back after it. -/
theorem State.stepWith_eq_next {s : State} {rnd : Byte} {r : StepResult} :
    s.stepWith rnd = .next r ↔
      ∃ q, ({ s with draws := [rnd] } : State).stepResult = .next q ∧
        r = ⟨q.status, { q.state with draws := s.draws }⟩ := by
  unfold State.stepWith
  cases ({ s with draws := [rnd] } : State).stepResult <;> simp [eq_comm]

theorem hostCall_step_eq_next {s t : State} {rnd : Byte} {r : HostResult} :
    hostCall (.step rnd) s = .next (r, t) ↔ ∃ q, s.stepWith rnd = .next q ∧ r = .status q.status ∧ t = q.state := by
  simp only [hostCall]
  cases s.stepWith rnd <;> simp [eq_comm]

/-! ### Timers and cues -/

theorem decTimer_toNat (b : Byte) : (decTimer b).toNat = b.toNat - 1 := by
  unfold decTimer
  split
  · subst_vars
    rfl
  · rename_i h
    have h0 : b.toNat ≠ 0 := fun e => h (BitVec.eq_of_toNat_eq e)
    have := b.isLt
    rw [BitVec.toNat_sub]
    show (2 ^ 8 - 1 + b.toNat) % 2 ^ 8 = _
    omega

@[simp] theorem decTimer_zero : decTimer 0 = 0 := rfl

theorem HostResult.isCue_cue (c : ToneCue) : (HostResult.cue c).isCue = decide (c ≠ .none) := by cases c <;> rfl

/-- Only a tick returns a cue. -/
theorem hostCall_isCue {op : HostOp} {s t : State} {r : HostResult} (h : hostCall op s = .next (r, t))
    (hc : r.isCue = true) : op = .tickTimers := by
  cases op with
  | tickTimers => rfl
  | step rnd =>
    obtain ⟨q, _, rfl, _⟩ := hostCall_step_eq_next.1 h
    simp [HostResult.isCue] at hc
  | reset | loadProgram | setKeys | display | isFaulted | cycleCount =>
    simp only [hostCall, Host.Outcome.next.injEq, Prod.mk.injEq] at h
    obtain ⟨rfl, _⟩ := h
    simp [HostResult.isCue] at hc

/-! ### Sequences that give ST no new start -/

theorem keepsSoundRun_step (rnd : Byte) (s : State) : keepsSoundRun (.step rnd) s = true ↔ ¬s.ExecutesLdSt := by
  simp only [keepsSoundRun, Bool.not_eq_true', decide_eq_false_iff_not]

theorem runKeepsSoundRun_cons {op : HostOp} {ops : List HostOp} {s t : State} {r : HostResult}
    (h : hostCall op s = .next (r, t)) :
    runKeepsSoundRun (op :: ops) s = true ↔ keepsSoundRun op s = true ∧ runKeepsSoundRun ops t = true := by
  simp [runKeepsSoundRun, h]

end Sys2Proof.Machine
end

