-- ==== Sys2Proof/Laws/PerInstr.lean ====
section
/-! SUPPORT. Laws about each instruction as syntax. Family RowMatch: the opcode of an instruction lies in the row of
spec/opcode_table.json that bears its mnemonic (30_encoding.md R47). -/

namespace Sys2Proof.Laws.RowMatch

/-- Some row of the table has the instruction's mnemonic and accepts its opcode. -/
def Statement (i : Instr) : Prop :=
  ∃ row ∈ opcodeRows, row.mnemonic = i.mnemonic ∧ row.accepts (encode i) = true

theorem accepts_of {m : String} {p k op : Word} (h : op &&& k = p) : (OpcodeRow.mk m p k).accepts op = true := by
  simp [OpcodeRow.accepts, h]

theorem cls : Statement .cls :=
  ⟨⟨"CLS", 0x00E0, 0xFFFF⟩, by decide, rfl, rfl⟩

theorem ret : Statement .ret :=
  ⟨⟨"RET", 0x00EE, 0xFFFF⟩, by decide, rfl, rfl⟩

theorem jp (nnn : Addr) : Statement (.jp nnn) :=
  ⟨⟨"JP", 0x1000, 0xF000⟩, by decide, rfl, accepts_of (by simp [encode, wordNNN_and])⟩

theorem call (nnn : Addr) : Statement (.call nnn) :=
  ⟨⟨"CALL", 0x2000, 0xF000⟩, by decide, rfl, accepts_of (by simp [encode, wordNNN_and])⟩

theorem seImm (x : Reg) (kk : Byte) : Statement (.seImm x kk) :=
  ⟨⟨"SE_IMM", 0x3000, 0xF000⟩, by decide, rfl, accepts_of (by simp [encode, wordXKK_and_group])⟩

theorem sneImm (x : Reg) (kk : Byte) : Statement (.sneImm x kk) :=
  ⟨⟨"SNE_IMM", 0x4000, 0xF000⟩, by decide, rfl, accepts_of (by simp [encode, wordXKK_and_group])⟩

theorem seReg (x y : Reg) : Statement (.seReg x y) :=
  ⟨⟨"SE_REG", 0x5000, 0xF00F⟩, by decide, rfl, accepts_of (by simp [encode, wordXYN_and_outer])⟩

theorem ldImm (x : Reg) (kk : Byte) : Statement (.ldImm x kk) :=
  ⟨⟨"LD_IMM", 0x6000, 0xF000⟩, by decide, rfl, accepts_of (by simp [encode, wordXKK_and_group])⟩

theorem addImm (x : Reg) (kk : Byte) : Statement (.addImm x kk) :=
  ⟨⟨"ADD_IMM", 0x7000, 0xF000⟩, by decide, rfl, accepts_of (by simp [encode, wordXKK_and_group])⟩

theorem ldReg (x y : Reg) : Statement (.ldReg x y) :=
  ⟨⟨"LD_REG", 0x8000, 0xF00F⟩, by decide, rfl, accepts_of (by simp [encode, wordXYN_and_outer])⟩

theorem orReg (x y : Reg) : Statement (.orReg x y) :=
  ⟨⟨"OR", 0x8001, 0xF00F⟩, by decide, rfl, accepts_of (by simp [encode, wordXYN_and_outer])⟩

theorem andReg (x y : Reg) : Statement (.andReg x y) :=
  ⟨⟨"AND", 0x8002, 0xF00F⟩, by decide, rfl, accepts_of (by simp [encode, wordXYN_and_outer])⟩

theorem xorReg (x y : Reg) : Statement (.xorReg x y) :=
  ⟨⟨"XOR", 0x8003, 0xF00F⟩, by decide, rfl, accepts_of (by simp [encode, wordXYN_and_outer])⟩

theorem addReg (x y : Reg) : Statement (.addReg x y) :=
  ⟨⟨"ADD_REG", 0x8004, 0xF00F⟩, by decide, rfl, accepts_of (by simp [encode, wordXYN_and_outer])⟩

theorem sub (x y : Reg) : Statement (.sub x y) :=
  ⟨⟨"SUB", 0x8005, 0xF00F⟩, by decide, rfl, accepts_of (by simp [encode, wordXYN_and_outer])⟩

theorem shr (x y : Reg) : Statement (.shr x y) :=
  ⟨⟨"SHR", 0x8006, 0xF00F⟩, by decide, rfl, accepts_of (by simp [encode, wordXYN_and_outer])⟩

theorem subn (x y : Reg) : Statement (.subn x y) :=
  ⟨⟨"SUBN", 0x8007, 0xF00F⟩, by decide, rfl, accepts_of (by simp [encode, wordXYN_and_outer])⟩

theorem shl (x y : Reg) : Statement (.shl x y) :=
  ⟨⟨"SHL", 0x800E, 0xF00F⟩, by decide, rfl, accepts_of (by simp [encode, wordXYN_and_outer])⟩

theorem sneReg (x y : Reg) : Statement (.sneReg x y) :=
  ⟨⟨"SNE_REG", 0x9000, 0xF00F⟩, by decide, rfl, accepts_of (by simp [encode, wordXYN_and_outer])⟩

theorem ldI (nnn : Addr) : Statement (.ldI nnn) :=
  ⟨⟨"LD_I", 0xA000, 0xF000⟩, by decide, rfl, accepts_of (by simp [encode, wordNNN_and])⟩

theorem jpV0 (nnn : Addr) : Statement (.jpV0 nnn) :=
  ⟨⟨"JP_V0", 0xB000, 0xF000⟩, by decide, rfl, accepts_of (by simp [encode, wordNNN_and])⟩

theorem rnd (x : Reg) (kk : Byte) : Statement (.rnd x kk) :=
  ⟨⟨"RND", 0xC000, 0xF000⟩, by decide, rfl, accepts_of (by simp [encode, wordXKK_and_group])⟩

theorem drw (x y : Reg) (n : Nat) : Statement (.drw x y n) :=
  ⟨⟨"DRW", 0xD000, 0xF000⟩, by decide, rfl, accepts_of (by simp [encode, wordXYN_and_group])⟩

theorem skp (x : Reg) : Statement (.skp x) :=
  ⟨⟨"SKP", 0xE09E, 0xF0FF⟩, by decide, rfl, accepts_of (by simp [encode, wordXKK_and_outer])⟩

theorem sknp (x : Reg) : Statement (.sknp x) :=
  ⟨⟨"SKNP", 0xE0A1, 0xF0FF⟩, by decide, rfl, accepts_of (by simp [encode, wordXKK_and_outer])⟩

theorem ldVxDt (x : Reg) : Statement (.ldVxDt x) :=
  ⟨⟨"LD_VX_DT", 0xF007, 0xF0FF⟩, by decide, rfl, accepts_of (by simp [encode, wordXKK_and_outer])⟩

theorem ldK (x : Reg) : Statement (.ldK x) :=
  ⟨⟨"LD_K", 0xF00A, 0xF0FF⟩, by decide, rfl, accepts_of (by simp [encode, wordXKK_and_outer])⟩

theorem ldDt (x : Reg) : Statement (.ldDt x) :=
  ⟨⟨"LD_DT", 0xF015, 0xF0FF⟩, by decide, rfl, accepts_of (by simp [encode, wordXKK_and_outer])⟩

theorem ldSt (x : Reg) : Statement (.ldSt x) :=
  ⟨⟨"LD_ST", 0xF018, 0xF0FF⟩, by decide, rfl, accepts_of (by simp [encode, wordXKK_and_outer])⟩

theorem addI (x : Reg) : Statement (.addI x) :=
  ⟨⟨"ADD_I", 0xF01E, 0xF0FF⟩, by decide, rfl, accepts_of (by simp [encode, wordXKK_and_outer])⟩

theorem ldF (x : Reg) : Statement (.ldF x) :=
  ⟨⟨"LD_F", 0xF029, 0xF0FF⟩, by decide, rfl, accepts_of (by simp [encode, wordXKK_and_outer])⟩

theorem bcd (x : Reg) : Statement (.bcd x) :=
  ⟨⟨"BCD", 0xF033, 0xF0FF⟩, by decide, rfl, accepts_of (by simp [encode, wordXKK_and_outer])⟩

theorem stRegs (x : Reg) : Statement (.stRegs x) :=
  ⟨⟨"ST_REGS", 0xF055, 0xF0FF⟩, by decide, rfl, accepts_of (by simp [encode, wordXKK_and_outer])⟩

theorem ldRegs (x : Reg) : Statement (.ldRegs x) :=
  ⟨⟨"LD_REGS", 0xF065, 0xF0FF⟩, by decide, rfl, accepts_of (by simp [encode, wordXKK_and_outer])⟩

end Sys2Proof.Laws.RowMatch
end

