-- ==== Sys2Proof/Tests/Slice0.lean ====
section
/-! SUPPORT. Tests of the model: well-formedness, decoding, one step per instruction family, and a witness for the hypotheses of
every statement. The expected results are the vectors of spec/95_test_vectors.md (named by their ids), the words its rules
write out, or a word written out from the patterns of 30_encoding.md R47. -/

namespace Sys2Proof.Tests

open Sys2Proof.Machine

/-! ### Well-formedness -/

theorem test_wellFormed_refuses_height_16 : ¬(Instr.drw 0 0 16).WellFormed := by decide

theorem test_wellFormed_takes_height_15 : (Instr.drw 0 0 15).WellFormed := by decide

/-! ### Decoding: one word per constructor (R47) -/

/-- The word decodes to the instruction, and the instruction encodes to the word. -/
def isCodeOf (op : Word) (i : Instr) : Prop := decode op = .ok i ∧ encode i = op

theorem test_decode_control_flow :
    isCodeOf 0x00EE .ret ∧ isCodeOf 0x1228 (.jp 0x228) ∧ isCodeOf 0x2210 (.call 0x210) ∧ isCodeOf 0xB300 (.jpV0 0x300) ∧
    isCodeOf 0x332A (.seImm 3 0x2A) ∧ isCodeOf 0x432B (.sneImm 3 0x2B) ∧ isCodeOf 0x5120 (.seReg 1 2) ∧
    isCodeOf 0x9120 (.sneReg 1 2) := by unfold isCodeOf; decide

theorem test_decode_alu :
    isCodeOf 0x6A42 (.ldImm 0xA 0x42) ∧ isCodeOf 0x7F01 (.addImm 0xF 0x01) ∧ isCodeOf 0x8AB0 (.ldReg 0xA 0xB) ∧
    isCodeOf 0x8121 (.orReg 1 2) ∧ isCodeOf 0x8122 (.andReg 1 2) ∧ isCodeOf 0x8123 (.xorReg 1 2) ∧
    isCodeOf 0x80F4 (.addReg 0 0xF) ∧ isCodeOf 0x8125 (.sub 1 2) ∧ isCodeOf 0x8016 (.shr 0 1) ∧
    isCodeOf 0x8F17 (.subn 0xF 1) ∧ isCodeOf 0x801E (.shl 0 1) := by unfold isCodeOf; decide

theorem test_decode_index_memory :
    isCodeOf 0xA300 (.ldI 0x300) ∧ isCodeOf 0xF21E (.addI 2) ∧ isCodeOf 0xF029 (.ldF 0) ∧ isCodeOf 0xF733 (.bcd 7) ∧
    isCodeOf 0xF355 (.stRegs 3) ∧ isCodeOf 0xFF65 (.ldRegs 0xF) := by unfold isCodeOf; decide

theorem test_decode_random_display :
    isCodeOf 0xC30F (.rnd 3 0x0F) ∧ isCodeOf 0x00E0 .cls ∧ isCodeOf 0xD125 (.drw 1 2 5) ∧
    isCodeOf 0xDFE0 (.drw 0xF 0xE 0) := by unfold isCodeOf; decide

theorem test_decode_keys_timers :
    isCodeOf 0xE59E (.skp 5) ∧ isCodeOf 0xE5A1 (.sknp 5) ∧ isCodeOf 0xF107 (.ldVxDt 1) ∧ isCodeOf 0xF30A (.ldK 3) ∧
    isCodeOf 0xF115 (.ldDt 1) ∧ isCodeOf 0xF218 (.ldSt 2) := by unfold isCodeOf; decide

/-- ST3 to ST8, and the bytes of `DRW V1, V2, 5` high byte first (R32). -/
theorem test_decode_rejects_and_byte_order :
    ([0x0000, 0x0123, 0x5121, 0x9121, 0x8008, 0xE09F, 0xF030, 0x00FF].all fun op => !(decode op).isOk) = true ∧
    decodeBytes [0xD1, 0x25, 0x77] = .ok (.drw 1 2 5, [0x77]) ∧ decodeBytes [0xD1] = .error .tooFewBytes ∧
    decodeTableWord 16 0xD125 = some (.drw 1 2 5) ∧ decodeTableWord 16 0x0123 = none := by decide

/-! ### One step on a small state -/

/-- The reset state with the parameters the vectors of 95_test_vectors.md use. -/
def base : State := State.resetWith ⟨0, 0, .vx, defaultFont⟩

/-- The reset state with some registers and I set. -/
def withRegs (i : Word) (vs : List (Reg × Byte)) : State := vs.foldl (fun s p => s.setV p.1 p.2) (base.setI i)

/-- The state with bytes put at an address and up. -/
def withBytes (s : State) (a : Word) (bs : List Byte) : State := { s with mem := writeBytes s.params.font s.mem a 0 bs }

/-- The state with the listed keys pressed. -/
def withKeys (s : State) (ks : List (Fin 16)) : State := s.setKeys (ks.foldl (fun (v : Keys) (k : Fin 16) => v.set k.val true) base.key)

/-- What a next state shows. -/
def shown {α : Type} (f : State → α) : Host.Outcome State Fault Refusal → Option α
  | .next t => some (f t)
  | .fault _ | .refused _ => none

/-- The name under which a step stops. -/
def stopName : Host.Outcome State Fault Refusal → Option Fault
  | .fault e => some e
  | .next _ | .refused _ => none

/-- The status of a step. -/
def statusOf (s : State) : Option Status :=
  match s.stepResult with
  | .next r => some r.status
  | .fault _ | .refused _ => none

/-- One step of the opcode placed at PC. -/
def run1 {α : Type} (s : State) (op : Word) (f : State → α) : Option α := shown f (step (s.placeWord op))

/-- How one step of the opcode placed at PC stops. -/
def stop1 (s : State) (op : Word) : Option Fault := stopName (step (s.placeWord op))

/-- The registers listed, as numbers. -/
def regs (rs : List Reg) (s : State) : List Nat := rs.map fun r => (s.getV r).toNat

/-- `n` bytes of memory from an address up, as numbers. -/
def bytes (a n : Nat) (s : State) : List Nat := (List.range n).map fun k => (s.readByte (BitVec.ofNat 12 (a + k))).toNat

/-- CF2, CF4 and CF18. -/
theorem test_call_and_ret :
    run1 (base.setPc 0x208) 0x2210 (fun t => (t.pc, t.sp, t.stackAt 0)) = some (0x210, 1, 0x20A) ∧
    run1 (base.setPc 0xFFE) 0x2300 (fun t => (t.pc, t.sp, t.stackAt 0)) = some (0x300, 1, 0x1000) ∧
    run1 base 0x00EE (fun t => (t.pc, t.sp)) = some (0x000, 15) := by decide

/-- CF3: the entry is not cleared. -/
theorem test_ret_keeps_the_entry :
    run1 ((base.push 0x20A).setPc 0x210) 0x00EE (fun t => (t.pc, t.sp, t.stackAt 0)) = some (0x20A, 0, 0x20A) := by decide

/-- CF1 and CF16: a jump, and a sum past 12 bits. -/
theorem test_jumps :
    run1 base 0x1228 (fun t => t.pc) = some 0x228 ∧ run1 (base.setV 0 0xFF) 0xBFFF (fun t => t.pc) = some 0x10FE := by decide

/-- CF6, CF8, CF9, CF11, CF12 and CF13. -/
theorem test_skips :
    run1 ((base.setV 3 0x2A).setPc 0x204) 0x332A (fun t => t.pc) = some 0x208 ∧
    run1 ((base.setV 3 0x2A).setPc 0x204) 0x432B (fun t => t.pc) = some 0x208 ∧
    run1 ((base.setV 3 0x2A).setPc 0x204) 0x432A (fun t => t.pc) = some 0x206 ∧
    run1 (withRegs 0 [(1, 7), (2, 8)]) 0x5120 (fun t => t.pc) = some 0x202 ∧
    run1 (base.setV 1 9) 0x5110 (fun t => t.pc) = some 0x204 ∧
    run1 (withRegs 0 [(1, 7), (2, 8)]) 0x9120 (fun t => t.pc) = some 0x204 := by decide

/-- AL23, AL25 to AL30. -/
theorem test_moves_adds_and_logic :
    run1 (withRegs 0 [(0, 0xFE), (15, 7)]) 0x7005 (regs [0, 15]) = some [0x03, 7] ∧
    run1 (withRegs 0 [(0, 0xF0), (1, 0x0F), (15, 9)]) 0x8011 (regs [0, 15]) = some [0xFF, 9] ∧
    run1 (withRegs 0 [(0, 0xF0), (1, 0x3C), (15, 9)]) 0x8012 (regs [0, 15]) = some [0x30, 9] ∧
    run1 (withRegs 0 [(0, 0xF0), (1, 0x3C), (15, 9)]) 0x8013 (regs [0, 15]) = some [0xCC, 9] ∧
    run1 base 0x6A42 (regs [0xA]) = some [0x42] ∧ run1 (base.setV 0xB 0x13) 0x8AB0 (regs [0xA, 0xB]) = some [0x13, 0x13] := by
  decide

/-- AL1, AL6 and AL7: with X = F the carry wins, and with Y = F the old VF is the operand. -/
theorem test_add_carry :
    run1 (withRegs 0 [(0, 0xFF), (1, 1)]) 0x8014 (regs [0, 15]) = some [0, 1] ∧
    run1 (withRegs 0 [(15, 5), (1, 0xFF)]) 0x8F14 (regs [15]) = some [1] ∧
    run1 (withRegs 0 [(0, 1), (15, 0xFF)]) 0x80F4 (regs [0, 15]) = some [0, 1] := by decide

/-- AL8, AL9, AL12, AL13 and AL14. -/
theorem test_subtract_not_borrow :
    run1 (withRegs 0 [(0, 1), (1, 2)]) 0x8015 (regs [0, 15]) = some [0xFF, 0] ∧
    run1 (withRegs 0 [(0, 5), (1, 5)]) 0x8015 (regs [0, 15]) = some [0, 1] ∧
    run1 (withRegs 0 [(0, 2), (1, 5)]) 0x8017 (regs [0, 15]) = some [3, 1] ∧
    run1 (base.setV 0 1) 0x8017 (regs [0, 15]) = some [0xFF, 0] ∧
    run1 (withRegs 0 [(15, 3), (1, 1)]) 0x8F17 (regs [15]) = some [0] := by decide

/-- AL16, AL18, AL19 and AL21: the source is VX. -/
theorem test_shift_source_vx :
    run1 (withRegs 0 [(0, 5), (1, 0xC)]) 0x8016 (regs [0, 1, 15]) = some [2, 0xC, 1] ∧
    run1 (base.setV 15 3) 0x8F06 (regs [15]) = some [1] ∧ run1 (base.setV 0 0x81) 0x800E (regs [0, 15]) = some [2, 1] ∧
    run1 (withRegs 0 [(0, 1), (1, 0x80)]) 0x801E (regs [0, 15]) = some [2, 0] := by decide

/-- AL17 and AL22: the source is VY. -/
theorem test_shift_source_vy :
    run1 { withRegs 0 [(0, 5), (1, 0xC)] with params := ⟨0, 0, .vy, defaultFont⟩ } 0x8016 (regs [0, 1, 15]) = some [6, 0xC, 0] ∧
    run1 { withRegs 0 [(0, 1), (1, 0x80)] with params := ⟨0, 0, .vy, defaultFont⟩ } 0x801E (regs [0, 1, 15]) = some [0, 0x80, 1] := by
  decide

/-- MM1, MM2, MM3, MM5 and MM6. -/
theorem test_index_register :
    run1 (base.setI 0xF123) 0xA300 (fun t => t.i) = some 0x300 ∧
    run1 (withRegs 0xFFE [(2, 5), (15, 7)]) 0xF21E (fun t => (t.i, t.getV 15)) = some (0x1003, 7) ∧
    run1 (withRegs 0xFFFF [(2, 2)]) 0xF21E (fun t => t.i) = some 1 ∧
    run1 (base.setV 0 0xF) 0xF029 (fun t => t.i) = some 0x4B ∧
    stop1 (base.setV 0 0x10) 0xF029 = some (.unspecified .fontDigit) := by decide

/-- MM7, MM9 and MM10. -/
theorem test_bcd :
    run1 (withRegs 0x300 [(0, 0xEA)]) 0xF033 (fun t => (bytes 0x300 3 t, t.i)) = some ([2, 3, 4], 0x300) ∧
    run1 (withBytes (withRegs 0x300 [(0, 7)]) 0x300 [9, 9, 9]) 0xF033 (bytes 0x300 3) = some [0, 0, 7] ∧
    stop1 (withRegs 0xFFE [(0, 0x7B)]) 0xF033 = some (.unspecified .lowStore) := by decide

/-- MM11, MM14 and MM17. -/
theorem test_store_registers :
    run1 (withRegs 0x300 [(0, 0x11), (1, 0x22), (2, 0x33), (3, 0x44)]) 0xF355 (fun t => (bytes 0x300 5 t, t.i)) =
      some ([0x11, 0x22, 0x33, 0x44, 0], 0x304) ∧
    stop1 (base.setI 0x1FF) 0xF155 = some (.unspecified .lowStore) ∧
    run1 (withRegs 0x1300 [(0, 0x5A)]) 0xF055 (fun t => (bytes 0x300 1 t, t.i)) = some ([0x5A], 0x1301) := by decide

/-- MM15 and MM16: the block wraps to the font. -/
theorem test_load_registers :
    run1 (withBytes (base.setI 0xFFF) 0xFFF [0xAB]) 0xF165 (fun t => (regs [0, 1] t, t.i)) = some ([0xAB, 0xF0], 0x1001) ∧
    run1 (base.setI 0xFF8) 0xFF65 (fun t => (regs [7, 8, 9, 0xA, 0xB, 0xC, 0xD, 0xE, 0xF] t, t.i)) =
      some ([0, 0xF0, 0x90, 0x90, 0x90, 0xF0, 0x20, 0x60, 0x20], 0x1008) := by decide

/-- RN1 and RN4. -/
theorem test_random :
    run1 { base with draws := [0xB7, 0x11] } 0xC30F (fun t => (t.getV 3, t.draws)) = some (0x07, [0x11]) ∧
    run1 { base.setV 15 0x77 with draws := [0xFF] } 0xCF01 (fun t => t.getV 15) = some 1 := by decide

/-- The pixels listed are 1 and the ones listed after them 0. -/
def pixels (on off : List (Fin 32 × Fin 64)) (s : State) : Bool :=
  on.all (fun p => pixelAt s.disp p.1 p.2) && off.all (fun p => !pixelAt s.disp p.1 p.2)

/-- DP3: glyph A at column 62 and row 30 wraps on both edges. -/
theorem test_draw_wraps :
    run1 (withRegs 0x32 [(1, 0x3E), (2, 0x1E)]) 0xD125 (fun t => (t.getV 15,
      pixels [(0, 0), (0, 1), (0, 62), (0, 63), (1, 1), (1, 62), (2, 1), (2, 62), (30, 0), (30, 63), (31, 1), (31, 62)]
        [(1, 0), (1, 63), (31, 0), (2, 0), (3, 1), (29, 62)] t)) = some (0, true) := by decide

/-- DP6: with X = F the column is the old VF; and a second draw over a set pixel collides and clears it (W3). -/
theorem test_draw_operands_and_collision :
    run1 (withBytes (withRegs 0x300 [(15, 3)]) 0x300 [0x80]) 0xDF11 (fun t => (t.getV 15,
      pixels [(0, 3)] [(0, 0), (1, 3)] t)) = some (0, true) ∧
    run1 { withBytes (base.setI 0x300) 0x300 [0xC0] with disp := flipPixel blankDisplay 0 0 } 0xD001 (fun t => (t.getV 15,
      pixels [(0, 1)] [(0, 0)] t)) = some (1, true) ∧
    stop1 base 0xD120 = some (.unspecified .spriteHeightZero) := by decide

/-- DP9: `CLS` clears and leaves VF. -/
theorem test_cls :
    run1 { base.setV 15 5 with disp := flipPixel blankDisplay 31 63 } 0x00E0 (fun t => (t.getV 15,
      pixels [] [(31, 63), (0, 0)] t)) = some (5, true) := by decide

/-- KT1 to KT5. -/
theorem test_skips_on_key :
    run1 (withKeys (base.setV 5 0xA) [0xA]) 0xE59E (fun t => t.pc) = some 0x204 ∧
    run1 (base.setV 5 0xA) 0xE59E (fun t => t.pc) = some 0x202 ∧
    run1 (base.setV 5 0xA) 0xE5A1 (fun t => t.pc) = some 0x204 ∧
    run1 (withKeys (base.setV 5 0xA) [0xA]) 0xE5A1 (fun t => t.pc) = some 0x202 ∧
    stop1 (base.setV 5 0x10) 0xE59E = some (.unspecified .keyIndex) := by decide

/-- KT6 and KT7. -/
theorem test_key_wait :
    statusOf (base.placeWord 0xF30A) = some .awaitingInput ∧
    run1 base 0xF30A (fun t => (t.pc, t.cycles)) = some (0x200, 0) ∧
    run1 (withKeys base [9, 4]) 0xF30A (fun t => (t.getV 3, t.pc, t.cycles)) = some (4, 0x202, 1) := by decide

/-- KT8, KT9 and KT10. -/
theorem test_timer_moves :
    run1 (base.setDt 60) 0xF107 (fun t => t.getV 1) = some 0x3C ∧ run1 (base.setV 1 0x3C) 0xF115 (fun t => t.dt) = some 60 ∧
    run1 ((State.resetWith ⟨8, 0, .vx, defaultFont⟩).setV 2 5) 0xF218 (fun t => (t.st, t.bootCuePending, t.cueLatched)) =
      some (5, false, false) := by decide

/-- ST1, ST9, ST10 and ST13's first step: the two faults, the last fetchable address and a store over code. -/
theorem test_faults_and_fetch :
    run1 base 0x0000 (fun t => (t.faulted, t.faultCause, t.pc, t.cycles)) =
      some (true, some .undecodableOpcode, 0x202, 0) ∧
    shown (fun t => (t.faulted, t.faultCause, t.pc)) (step (base.setPc 0xFFF)) = some (true, some .outOfBounds, 0xFFF) ∧
    run1 (base.setPc 0xFFE) 0x6001 (fun t => (t.getV 0, t.pc)) = some (1, 0x1000) ∧
    run1 (withRegs 0x202 [(0, 0x60), (1, 0x7E)]) 0xF155 (fun t => (t.fetchWord, t.pc)) = some (0x607E, 0x202) := by decide

/-- TC1 and TC8: the boot cue comes first, and once. -/
theorem test_boot_cue :
    tickCues 5 (State.resetWith ⟨4, 2, .vx, defaultFont⟩) = [.fatal, .none, .none, .none, .none] ∧
    tickCues 2 (State.resetWith ⟨1, 0, .vx, defaultFont⟩) = [.fatal, .none] := by decide

/-- TC2 and TC3: the Normal cue on the tick from 3 to 2 with threshold 2, and none from 2. -/
theorem test_normal_cue :
    tickCues 6 ((State.resetWith ⟨0, 2, .vx, defaultFont⟩).setSt 5) = [.none, .none, .normal, .none, .none, .none] ∧
    tickCues 3 ((State.resetWith ⟨0, 2, .vx, defaultFont⟩).setSt 2) = [.none, .none, .none] := by decide

/-- LO1 and LO4. -/
theorem test_loader :
    (base.loadProgram []).1 = .emptyProgram ∧
    (({ base with faulted := true } : State).loadProgram [0x12, 0x00]).1 = .ok ∧
    bytes 0x1FF 3 (base.loadProgram [0x12, 0x34]).2 = [0, 0x12, 0x34] := by decide

/-! ### Witnesses: a state and operands that meet the hypotheses of each statement -/

theorem base_inv : base.Inv where
  memCanonical := by decide
  causeRecorded := by decide
  pcBound := by decide
  stackBound := by decide
  latchedCounts := by decide
  bootUntouched := by decide

theorem test_witness_DecodeOfEncodeIsIdentity : (Instr.drw 0xF 0xE 15).WellFormed ∧ (Instr.drw 0 0 0).WellFormed := by decide

theorem test_witness_EncodeOfDecodeIsIdentity :
    decode 0xDFEF = .ok (.drw 0xF 0xE 15) ∧ decode 0xD000 = .ok (.drw 0 0 0) := by decide

/-- The last height a sprite's field holds, and the fields of `DXYN` at their places. -/
theorem test_witness_EncodingsFollowTheirPatterns : (15 : Nat) < 16 ∧ encode (.drw 1 2 15) = 0xD12F := by decide

theorem test_witness_DecodeFollowsTheOpcodeTable :
    decode 0x800E = .ok (.shl 0 0) ∧ (⟨"SHL", 0x800E, 0xF00F⟩ : OpcodeRow) ∈ opcodeRows ∧
    OpcodeRow.accepts ⟨"SHL", 0x800E, 0xF00F⟩ 0x8FFE = true := by decide

theorem test_witness_UndecodableOpcodesByGroup :
    decode 0x00E1 = .error (.undecodableOpcode 0x00E1) ∧ decode 0x9FFF = .error (.undecodableOpcode 0x9FFF) ∧
    decode 0x800D = .error (.undecodableOpcode 0x800D) ∧ decode 0xEFA0 = .error (.undecodableOpcode 0xEFA0) ∧
    decode 0xF0FF = .error (.undecodableOpcode 0xF0FF) := by decide

/-- The completing, the awaiting and the stopping clause, at the last fetchable address. -/
theorem test_witness_StepRunsTheDecodedInstruction :
    ((base.setPc 0xFFE).placeWord 0xF00A).faulted = false ∧ ((base.setPc 0xFFE).placeWord 0xF00A).pc.toNat ≤ 0xFFE ∧
    decode ((base.setPc 0xFFE).placeWord 0xF00A).fetchWord = .ok (.ldK 0) ∧ (∀ k, base.keyAt k = false) ∧
    decode (base.placeWord 0x6001).fetchWord = .ok (.ldImm 0 1) ∧
    (shown (fun t => t.pc) (exec (.ldImm 0 1) ((base.placeWord 0x6001).setPc 0x202))) = some 0x202 ∧
    stopName (exec (.drw 0 0 0) ((base.placeWord 0xD000).setPc 0x202)) = some (.unspecified .spriteHeightZero) := by decide

theorem test_witness_FetchIsBigEndian :
    (base.setPc 0xFFE).pc.toNat ≤ 0xFFE ∧ (withBytes (base.setPc 0xFFE) 0xFFE [0x12, 0x34]).fetchWord.toNat = 0x1234 := by
  decide

theorem test_witness_FaultedCoreIsFrozen :
    (base.takeFault .outOfBounds).faulted = true ∧
    ∀ op ∈ [HostOp.step 7, .tickTimers, .step 0], (∃ rnd, op = .step rnd) ∨ op = .tickTimers := by simp [State.takeFault]

theorem test_witness_FetchPastMemoryTakesOutOfBounds :
    (base.setPc 0xFFF).faulted = false ∧ 0xFFE < (base.setPc 0xFFF).pc.toNat := by decide

theorem test_witness_UnknownOpcodeTakesUndecodableOpcode :
    base.faulted = false ∧ base.pc.toNat ≤ 0xFFE ∧ (∀ row ∈ opcodeRows, row.accepts base.fetchWord = false) := by decide

theorem test_witness_CyclesCountCompletedSteps :
    statusOf (base.placeWord 0x6001) = some .ok ∧ statusOf base = some (.fault (some .undecodableOpcode)) := by decide

theorem test_witness_OnlyTheKeyWaitSuspends : statusOf (base.placeWord 0xFF0A) = some .awaitingInput := by decide

theorem test_witness_OnlyTheHostWritesKeys :
    (shown (fun t => t.keyAt 15) (step (withKeys (base.placeWord 0x6001) [15]))) = some true := by decide

/-- A register outside the destinations, VF left alone by a form that writes no flag, and a form that writes it. -/
theorem test_witness_RegistersChangeOnlyAsDestinationOrFlag :
    (shown (regs [0, 14, 15]) (exec (.ldRegs 14) (withRegs 0 [(15, 9)]))).isSome = true ∧ (15 : Reg) ∉ destRegs (.ldRegs 14) ∧
    (0 : Reg) ∉ destRegs (.addReg 1 2) ∧ writesFlag (.addReg 1 2) = true ∧
    (shown (regs [15]) (exec (.addReg 15 2) base)) = some [0] := by decide

/-- The first and the last byte of a block, at its lowest admitted address. -/
theorem test_witness_MemoryChangesOnlyByBlockStores :
    base.mem.wf base.params.font = true ∧
    (shown (fun t => (t.readByte 0x200, t.readByte 0x202)) (exec (.bcd 0) (withRegs 0x200 [(0, 0x7B)]))) = some (1, 3) ∧
    (shown (fun t => (t.readByte 0x200, t.readByte 0x20F)) (exec (.stRegs 15) (withRegs 0x200 [(0, 5), (15, 6)]))) = some (5, 6) := by
  decide

theorem test_witness_PartsChangeOnlyByTheirWriters :
    (shown (fun t => (t.sp, t.pc)) (exec (.call 0x300) base)) = some (1, 0x300) := by decide

theorem test_witness_StopsExactlyWhereUnspecified :
    stopName (exec (.drw 1 2 0) base) = some (.unspecified .spriteHeightZero) ∧
    stopName (exec (.sknp 1) (base.setV 1 16)) = some (.unspecified .keyIndex) ∧
    stopName (exec (.ldF 1) (base.setV 1 255)) = some (.unspecified .fontDigit) ∧
    stopName (exec (.bcd 1) (base.setI 0x1FF)) = some (.unspecified .lowStore) ∧
    stopName (exec (.stRegs 15) (base.setI 0xFF1)) = some (.unspecified .lowStore) := by decide

theorem test_witness_SoundTimerAndCyclesAreNotRead :
    (shown (fun t => t.st) (exec (.ldSt 0) (base.setV 0 3))) = some 3 ∧
    (shown (fun t => t.pc) (exec (.jp 0x300) base)) = some 0x300 ∧
    stopName (exec (.drw 1 2 0) base) = some (.unspecified .spriteHeightZero) := by decide

theorem test_witness_StepKeepsTheInvariant : base.Inv ∧ (shown (fun t => t.faulted) (step base)) = some true :=
  ⟨base_inv, by decide⟩

theorem test_witness_HostRunsKeepTheInvariant :
    base.Inv ∧ ∃ rs t, hostRun [.loadProgram [0x60, 0x01], .step 0, .tickTimers, .reset] base = .next (rs, t) :=
  ⟨base_inv, _, _, rfl⟩

theorem test_witness_LowMemoryKeepsItsResetContents :
    base.mem.wf base.params.font = true ∧ (∀ a : Addr, a.toNat < 0x200 → base.readByte a = resetByte base.params.font a.toNat) ∧
    ∃ rs t, hostRun [.loadProgram [0x60, 0x01], .step 0] base = .next (rs, t) :=
  ⟨rfl, fun _ _ => rfl, _, _, rfl⟩

theorem test_witness_CanonicalMemoriesReadingAlikeAreEqual :
    Memory.wf [(0x000, 0), (0xFFF, 5)] defaultFont = true ∧
    (∀ a : Addr, Memory.read [(0x000, 0), (0xFFF, 5)] defaultFont a = Memory.read [(0x000, 0), (0xFFF, 5)] defaultFont a) := ⟨by decide, fun _ => rfl⟩

/-- The oldest of the sixteen kept after seventeen pushes, and the newest. -/
theorem test_witness_StackRingKeepsTheLastSixteen :
    16 ≤ ((List.range 17).map (BitVec.ofNat 16)).length ∧
    (((List.range 17).map (BitVec.ofNat 16)).foldl State.push base).stackAt 1 = 1 ∧
    (((List.range 17).map (BitVec.ofNat 16)).foldl State.push base).stackAt 0 = 16 := by decide

theorem test_witness_AddWithCarry : (0 : Reg) ≠ vf ∧ (255 : Nat) < (0xFF : Byte).toNat + (0x01 : Byte).toNat := by decide

theorem test_witness_SubtractWithNotBorrow :
    (14 : Reg) ≠ vf ∧ ((withRegs 0 [(14, 5), (1, 5)]).getV 14).toNat ≥ ((withRegs 0 [(14, 5), (1, 5)]).getV 1).toNat := by
  decide

theorem test_witness_ShiftsByOne :
    (0 : Reg) ≠ vf ∧ (0x81 : Byte) = (if base.params.shiftSource = .vx then (base.setV 0 0x81).getV 0 else base.getV 1) := by
  decide

theorem test_witness_FontPointerOfDigit :
    ((base.setV 0 15).getV 0).toNat ≤ 15 ∧ 15 < ((base.setV 0 16).getV 0).toNat := by decide

theorem test_witness_BcdStoresThreeDigits :
    base.mem.wf base.params.font = true ∧ (∀ k, k < 3 → 0x200 ≤ (ea 0x200 k).toNat) ∧ (∀ k, k < 3 → 0x200 ≤ (ea 0xFFD k).toNat) ∧
    (∃ k, k < 3 ∧ (ea 0x1FF k).toNat < 0x200) ∧ (∃ k, k < 3 ∧ (ea 0xFFE k).toNat < 0x200) := by decide

theorem test_witness_StoreRegistersToBlock :
    base.mem.wf base.params.font = true ∧ (∀ k, k ≤ (15 : Reg).val → 0x200 ≤ (ea 0xFF0 k).toNat) ∧ 0x200 ≤ (ea 0xFFF 0).toNat ∧
    (∃ k, k ≤ (15 : Reg).val ∧ (ea 0xFF1 k).toNat < 0x200) ∧ (∃ k, k ≤ (0 : Reg).val ∧ (ea 0x1FF k).toNat < 0x200) := by decide

theorem test_witness_StoreThenLoadRestoresRegisters :
    base.mem.wf base.params.font = true ∧ ∃ t, exec (.stRegs 3) (withRegs 0x300 [(0, 1), (3, 4)]) = .next t ∧
      (∀ a, ({ t with i := 0x300 } : State).readByte a = t.readByte a) ∧ ({ t with i := 0x300 } : State).i = 0x300 :=
  ⟨rfl, _, rfl, fun _ => rfl, rfl⟩

theorem test_witness_RandomByteUnderMask :
    ({ base with draws := [0xB7] } : State).draws = 0xB7 :: [] ∧ base.draws = [] ∧
    (base.placeWord 0xC30F).faulted = false ∧ (base.placeWord 0xC30F).pc.toNat ≤ 0xFFE ∧
    decode (base.placeWord 0xC30F).fetchWord = .ok (.rnd 3 0x0F) := by decide

theorem test_witness_DrawXorsTheSprite :
    (15 : Nat) < 16 ∧ (shown (fun t => t.getV vf) (exec (.drw 0 1 15) base)) = some 0 ∧
    stopName (exec (.drw 0 1 0) base) = some (.unspecified .spriteHeightZero) := by decide

theorem test_witness_DrawTwiceRestoresTheDisplay :
    ∃ t, exec (.drw 0 1 5) base = .next t ∧ t.getV 0 = base.getV 0 ∧ t.getV 1 = base.getV 1 ∧
      (∀ row col, pixelAt base.disp row col = false) ∧ ∃ r, r < 5 ∧ base.readByte (ea base.i r) ≠ 0 :=
  ⟨_, rfl, by decide, by decide, by simp [base, State.resetWith, pixelAt], 0, by decide, by decide⟩

theorem test_witness_SkipsOnKey :
    ((base.setV 0 15).getV 0).toNat = (15 : Fin 16).val ∧ 15 < ((base.setV 0 16).getV 0).toNat := by decide

theorem test_witness_KeyWaitTakesTheLowestKey :
    (withKeys base [9, 4]).keyAt 4 = true ∧ (∀ j : Fin 16, j < 4 → (withKeys base [9, 4]).keyAt j = false) ∧
    (withKeys base [15]).keyAt 15 = true ∧ (∀ j : Fin 16, j < 15 → (withKeys base [15]).keyAt j = false) ∧
    (∀ k, base.keyAt k = false) := by decide

theorem test_witness_SoundTimerWriteEndsTheBootCue : base.getV 0 = 0 ∧ (base.setV 0 1).getV 0 ≠ 0 := by decide

/-- A core whose next tick is Fatal, one whose next tick is Normal, and one whose next tick has no cue. -/
theorem test_witness_TickFollowsTheTimerRule :
    (State.resetWith ⟨1, 0, .vx, defaultFont⟩).faulted = false ∧ (State.resetWith ⟨1, 0, .vx, defaultFont⟩).tickCue = .fatal ∧
    (base.setSt 1).tickCue = .normal ∧ base.tickCue = .none := by decide

/-- TC1's machine with every kind of call the statement allows between its ticks: one Fatal cue, on the first tick. -/
def cueRun : List HostOp :=
  [.loadProgram [0x60, 0x01], .step 0, .tickTimers, .setKeys base.key, .loadProgram [0x60, 0x01, 0x61, 0x02], .tickTimers, .step 0,
   .isFaulted, .cycleCount, .display, .tickTimers, .tickTimers, .tickTimers]

theorem test_witness_AtMostOneCuePerRun :
    runKeepsSoundRun cueRun (State.resetWith ⟨4, 2, .vx, defaultFont⟩) = true ∧
    (∃ rs t, hostRun cueRun (State.resetWith ⟨4, 2, .vx, defaultFont⟩) = .next (rs, t) ∧
      (rs.filter HostResult.isCue).length = 1) ∧
    runKeepsSoundRun [.step 0] (base.placeWord 0xF018) = false := ⟨by decide, ⟨_, _, rfl, by decide⟩, by decide⟩

/-- The empty, the smallest, the largest and the first too large program. -/
theorem test_witness_LoadProgramCopiesVerbatim :
    base.mem.wf base.params.font = true ∧ ([] : List Byte).length = 0 ∧ 0 < [(0x12 : Byte)].length ∧
    (List.replicate 3584 (0xAB : Byte)).length ≤ 3584 ∧ 3584 < (List.replicate 3585 (0xAB : Byte)).length := by
  refine ⟨rfl, rfl, Nat.one_pos, ?_, ?_⟩ <;> rw [List.length_replicate]
  exact Nat.lt_succ_self _

/-- From reset, from a faulted core, and from a PC out of range. -/
theorem test_witness_PlacedWordRunsNext :
    base.mem.wf base.params.font = true ∧ decodeTableWord 16 0x6A42 = some (.ldImm 0xA 0x42) ∧
    shown (regs [0xA]) (step (base.withFetchWord 16 0x6A42)) = some [0x42] ∧
    shown (regs [0xA]) (step ((base.takeFault .outOfBounds).withFetchWord 16 0x6A42)) = some [0x42] ∧
    shown (regs [0xA]) (step ((base.setPc 0x1000).withFetchWord 16 0x6A42)) = some [0x42] := by decide

end Sys2Proof.Tests
end

section
/-! SUPPORT. The decoder held against the rows of the opcode table (30_encoding.md R47). From a row to the decoder: the
decoder names an opcode by the bits under the mask of its group's rows, so it answers an opcode of a row as it answers
the row's pattern. From the decoder to a row: an opcode that decodes is the opcode of its instruction, which lies in the
row of its mnemonic (`Laws.RowMatch`). -/

namespace Sys2Proof

/-! ### The fields of an opcode give the opcode back -/

@[simp] theorem ofFin_opX (op : Word) : (BitVec.ofFin (opX op) : Nibble) = op.extractLsb' 8 4 := rfl

@[simp] theorem ofFin_opY (op : Word) : (BitVec.ofFin (opY op) : Nibble) = op.extractLsb' 4 4 := rfl

theorem wordNNN_fields (op : Word) : wordNNN (opGroup op) (opNNN op) = op := by
  apply BitVec.eq_of_getLsbD_eq
  intro i hi
  interval_cases i <;> simp [wordNNN, opGroup, opNNN]

theorem wordXKK_fields (op : Word) : wordXKK (opGroup op) (opX op) (opKK op) = op := by
  apply BitVec.eq_of_getLsbD_eq
  intro i hi
  interval_cases i <;> simp [wordXKK, opGroup, opKK]

theorem wordXYN_fields (op : Word) : wordXYN (opGroup op) (opX op) (opY op) (opN op) = op := by
  apply BitVec.eq_of_getLsbD_eq
  intro i hi
  interval_cases i <;> simp [wordXYN, opGroup, opN]

section
variable {op : Word} {g : Nibble} (hg : (opGroup op).toNat = g.toNat)
include hg

theorem wordNNN_of_group : wordNNN g (opNNN op) = op := by
  rw [← BitVec.eq_of_toNat_eq hg, wordNNN_fields]

theorem wordXKK_of_group : wordXKK g (opX op) (opKK op) = op := by
  rw [← BitVec.eq_of_toNat_eq hg, wordXKK_fields]

theorem wordXKK_of_outer {kk : Byte} (hk : (opKK op).toNat = kk.toNat) : wordXKK g (opX op) kk = op := by
  rw [← BitVec.eq_of_toNat_eq hk, wordXKK_of_group hg]

theorem wordXYN_of_outer {n : Nibble} (hn : (opN op).toNat = n.toNat) : wordXYN g (opX op) (opY op) n = op := by
  rw [← BitVec.eq_of_toNat_eq hg, ← BitVec.eq_of_toNat_eq hn, wordXYN_fields]

end

/-! ### An opcode that decodes is the opcode of its instruction -/

section
variable {op : Word} {i : Instr}

theorem encode_of_decodeGroup0 (h : decodeGroup0 op = .ok i) : encode i = op := by
  unfold decodeGroup0 at h
  split_ifs at h with hcls hret
  · cases h; exact hcls.symm
  · cases h; exact hret.symm

theorem encode_of_decodeXY0 {f : Reg → Reg → Instr} {g : Nibble} (hf : ∀ x y, encode (f x y) = wordXYN g x y 0)
    (hg : (opGroup op).toNat = g.toNat) (h : decodeXY0 op f = .ok i) : encode i = op := by
  unfold decodeXY0 at h
  split_ifs at h with hn
  cases h
  rw [hf, wordXYN_of_outer hg (congrArg BitVec.toNat hn)]

theorem encode_of_decodeGroup8 (hg : (opGroup op).toNat = 0x8) (h : decodeGroup8 op = .ok i) : encode i = op := by
  unfold decodeGroup8 at h
  split at h <;> cases h <;> exact wordXYN_of_outer hg (by assumption)

theorem encode_of_decodeGroupE (hg : (opGroup op).toNat = 0xE) (h : decodeGroupE op = .ok i) : encode i = op := by
  unfold decodeGroupE at h
  split at h <;> cases h <;> exact wordXKK_of_outer hg (by assumption)

theorem encode_of_decodeGroupF (hg : (opGroup op).toNat = 0xF) (h : decodeGroupF op = .ok i) : encode i = op := by
  unfold decodeGroupF at h
  split at h <;> cases h <;> exact wordXKK_of_outer hg (by assumption)

theorem encode_of_decode (h : decode op = .ok i) : encode i = op := by
  have hlt := (opGroup op).isLt
  unfold decode at h
  interval_cases hg : (opGroup op).toNat
  -- One goal per group, 0 to F in order.
  · exact encode_of_decodeGroup0 h
  · cases h; exact wordNNN_of_group hg
  · cases h; exact wordNNN_of_group hg
  · cases h; exact wordXKK_of_group hg
  · cases h; exact wordXKK_of_group hg
  · exact encode_of_decodeXY0 (g := 0x5) (fun _ _ => rfl) hg h
  · cases h; exact wordXKK_of_group hg
  · cases h; exact wordXKK_of_group hg
  · exact encode_of_decodeGroup8 hg h
  · exact encode_of_decodeXY0 (g := 0x9) (fun _ _ => rfl) hg h
  · cases h; exact wordNNN_of_group hg
  · cases h; exact wordNNN_of_group hg
  · cases h; exact wordXKK_of_group hg
  · cases h; exact wordXYN_of_outer hg (by simp)
  · exact encode_of_decodeGroupE hg h
  · exact encode_of_decodeGroupF hg h

end

/-! ### From an instruction to its row -/

theorem rowMatch : ∀ i : Instr, Laws.RowMatch.Statement i
  | .cls => Laws.RowMatch.cls
  | .ret => Laws.RowMatch.ret
  | .jp nnn => Laws.RowMatch.jp nnn
  | .call nnn => Laws.RowMatch.call nnn
  | .seImm x kk => Laws.RowMatch.seImm x kk
  | .sneImm x kk => Laws.RowMatch.sneImm x kk
  | .seReg x y => Laws.RowMatch.seReg x y
  | .ldImm x kk => Laws.RowMatch.ldImm x kk
  | .addImm x kk => Laws.RowMatch.addImm x kk
  | .ldReg x y => Laws.RowMatch.ldReg x y
  | .orReg x y => Laws.RowMatch.orReg x y
  | .andReg x y => Laws.RowMatch.andReg x y
  | .xorReg x y => Laws.RowMatch.xorReg x y
  | .addReg x y => Laws.RowMatch.addReg x y
  | .sub x y => Laws.RowMatch.sub x y
  | .shr x y => Laws.RowMatch.shr x y
  | .subn x y => Laws.RowMatch.subn x y
  | .shl x y => Laws.RowMatch.shl x y
  | .sneReg x y => Laws.RowMatch.sneReg x y
  | .ldI nnn => Laws.RowMatch.ldI nnn
  | .jpV0 nnn => Laws.RowMatch.jpV0 nnn
  | .rnd x kk => Laws.RowMatch.rnd x kk
  | .drw x y n => Laws.RowMatch.drw x y n
  | .skp x => Laws.RowMatch.skp x
  | .sknp x => Laws.RowMatch.sknp x
  | .ldVxDt x => Laws.RowMatch.ldVxDt x
  | .ldK x => Laws.RowMatch.ldK x
  | .ldDt x => Laws.RowMatch.ldDt x
  | .ldSt x => Laws.RowMatch.ldSt x
  | .addI x => Laws.RowMatch.addI x
  | .ldF x => Laws.RowMatch.ldF x
  | .bcd x => Laws.RowMatch.bcd x
  | .stRegs x => Laws.RowMatch.stRegs x
  | .ldRegs x => Laws.RowMatch.ldRegs x

theorem exists_row_of_decode {op : Word} {i : Instr} (h : decode op = .ok i) :
    ∃ row ∈ opcodeRows, row.accepts op = true ∧ row.mnemonic = i.mnemonic := by
  obtain ⟨row, hrow, hname, haccepts⟩ := rowMatch i
  exact ⟨row, hrow, encode_of_decode h ▸ haccepts, hname⟩

/-! ### The decoder names an opcode by the bits under its group's mask -/

/-- The mask of the rows of a group (`opcodeRows_mask`): `G` and the sub-field R47 dispatches on within the group. -/
def groupMask (g : Nibble) : Word :=
  match g.toNat with
  | 0x0 => 0xFFFF
  | 0x5 | 0x8 | 0x9 => 0xF00F
  | 0xE | 0xF => 0xF0FF
  | _ => 0xF000

/-- The mnemonic of a decoder's answer; there is none for an undecodable opcode. -/
def decodedMnemonic : Except DecodeError Instr → Option String
  | .ok i => some i.mnemonic
  | .error _ => none

theorem decodedMnemonic_eq_some {r : Except DecodeError Instr} {m : String} :
    decodedMnemonic r = some m ↔ ∃ i, r = .ok i ∧ i.mnemonic = m := by
  cases r <;> simp [decodedMnemonic]

theorem opGroup_and_groupMask (op : Word) (g : Nibble) : opGroup (op &&& groupMask g) = opGroup op := by
  have hmask : opGroup (groupMask g) = BitVec.allOnes 4 := by decide +revert
  rw [opGroup, BitVec.extractLsb'_and, ← opGroup, ← opGroup, hmask, BitVec.and_allOnes]

section
variable {op : Word} {g : Nibble} (hg : (opGroup op).toNat = g.toNat)
include hg

theorem masked_eq_self (hmask : groupMask g = BitVec.allOnes 16) : op &&& groupMask (opGroup op) = op := by
  rw [BitVec.eq_of_toNat_eq hg, hmask, BitVec.and_allOnes]

theorem opN_masked (hmask : opN (groupMask g) = BitVec.allOnes 4) : opN (op &&& groupMask (opGroup op)) = opN op := by
  rw [opN, BitVec.extractLsb'_and, ← opN, ← opN, BitVec.eq_of_toNat_eq hg, hmask, BitVec.and_allOnes]

theorem opKK_masked (hmask : opKK (groupMask g) = BitVec.allOnes 8) :
    opKK (op &&& groupMask (opGroup op)) = opKK op := by
  rw [opKK, BitVec.extractLsb'_and, ← opKK, ← opKK, BitVec.eq_of_toNat_eq hg, hmask, BitVec.and_allOnes]

end

section
variable {op op' : Word}

theorem decodedMnemonic_decodeXY0_congr {f : Reg → Reg → Instr} {m : String} (hf : ∀ x y, (f x y).mnemonic = m)
    (h : opN op = opN op') : decodedMnemonic (decodeXY0 op f) = decodedMnemonic (decodeXY0 op' f) := by
  unfold decodeXY0
  rw [h]
  split <;> simp [decodedMnemonic, hf]

theorem decodedMnemonic_decodeGroup8_congr (h : opN op = opN op') :
    decodedMnemonic (decodeGroup8 op) = decodedMnemonic (decodeGroup8 op') := by
  unfold decodeGroup8
  rw [h]
  split <;> rfl

theorem decodedMnemonic_decodeGroupE_congr (h : opKK op = opKK op') :
    decodedMnemonic (decodeGroupE op) = decodedMnemonic (decodeGroupE op') := by
  unfold decodeGroupE
  rw [h]
  split <;> rfl

theorem decodedMnemonic_decodeGroupF_congr (h : opKK op = opKK op') :
    decodedMnemonic (decodeGroupF op) = decodedMnemonic (decodeGroupF op') := by
  unfold decodeGroupF
  rw [h]
  split <;> rfl

end

theorem decodedMnemonic_decode_masked (op : Word) :
    decodedMnemonic (decode (op &&& groupMask (opGroup op))) = decodedMnemonic (decode op) := by
  have hlt := (opGroup op).isLt
  unfold decode
  rw [opGroup_and_groupMask]
  interval_cases hg : (opGroup op).toNat
  -- One goal per group, 0 to F in order; where `rfl` closes it, every opcode of the group decodes to one mnemonic.
  · rw [masked_eq_self (g := 0x0) hg rfl]
  · rfl
  · rfl
  · rfl
  · rfl
  · exact decodedMnemonic_decodeXY0_congr (fun _ _ => rfl) (opN_masked (g := 0x5) hg rfl)
  · rfl
  · rfl
  · exact decodedMnemonic_decodeGroup8_congr (opN_masked (g := 0x8) hg rfl)
  · exact decodedMnemonic_decodeXY0_congr (fun _ _ => rfl) (opN_masked (g := 0x9) hg rfl)
  · rfl
  · rfl
  · rfl
  · rfl
  · exact decodedMnemonic_decodeGroupE_congr (opKK_masked (g := 0xE) hg rfl)
  · exact decodedMnemonic_decodeGroupF_congr (opKK_masked (g := 0xF) hg rfl)

/-! ### From a row to the decoder -/

theorem opcodeRows_mask : ∀ row ∈ opcodeRows, row.mask = groupMask (opGroup row.pattern) := by decide

theorem opcodeRows_pattern_decodes :
    ∀ row ∈ opcodeRows, decodedMnemonic (decode row.pattern) = some row.mnemonic := by decide

theorem opcodeRows_mnemonics_nodup : (opcodeRows.map OpcodeRow.mnemonic).Nodup := by decide

theorem OpcodeRow.masked_of_accepts {row : OpcodeRow} (hrow : row ∈ opcodeRows) {op : Word}
    (h : row.accepts op = true) : op &&& groupMask (opGroup op) = row.pattern := by
  have hpattern : op &&& row.mask = row.pattern := eq_of_beq h
  have hgroup : opGroup row.pattern = opGroup op := by
    rw [← hpattern, opcodeRows_mask row hrow, opGroup_and_groupMask]
  rw [← hgroup, ← opcodeRows_mask row hrow, hpattern]

theorem OpcodeRow.decode_of_accepts {row : OpcodeRow} (hrow : row ∈ opcodeRows) {op : Word}
    (h : row.accepts op = true) : ∃ i, decode op = .ok i ∧ i.mnemonic = row.mnemonic := by
  rw [← decodedMnemonic_eq_some, ← decodedMnemonic_decode_masked, masked_of_accepts hrow h]
  exact opcodeRows_pattern_decodes row hrow

/-- Two rows that accept one opcode both bear the mnemonic it decodes to, and no mnemonic stands twice in the table. -/
theorem OpcodeRow.eq_of_accepts {row row' : OpcodeRow} (hrow : row ∈ opcodeRows) (hrow' : row' ∈ opcodeRows) {op : Word}
    (h : row.accepts op = true) (h' : row'.accepts op = true) : row = row' := by
  obtain ⟨i, hi, hname⟩ := decode_of_accepts hrow h
  obtain ⟨i', hi', hname'⟩ := decode_of_accepts hrow' h'
  cases hi.symm.trans hi'
  exact List.inj_on_of_nodup_map opcodeRows_mnemonics_nodup hrow hrow' (hname.symm.trans hname')

/-- Settles O4: a decoded opcode lies in its instruction's row, a row's opcodes decode to its mnemonic, and so no two rows
meet. -/
theorem decodeFollowsTheOpcodeTable : Obligations.DecodeFollowsTheOpcodeTable :=
  ⟨fun _ _ h => exists_row_of_decode h,
    fun _ _ hrow h => OpcodeRow.decode_of_accepts hrow h,
    fun _ _ hrow _ hrow' h h' => OpcodeRow.eq_of_accepts hrow hrow' h h'⟩

end Sys2Proof
end

section
/-! SUPPORT. The fetch (40_cycle.md R56): the value of two bytes read big-endian, and the addresses they are read from. -/

namespace Sys2Proof

theorem wordOfBytes_toNat (hi lo : Byte) : (wordOfBytes hi lo).toNat = hi.toNat * 256 + lo.toNat := by
  have hhi := hi.isLt
  have hlo := lo.isLt
  have hfits : hi.toNat <<< 8 < 2 ^ 16 := by omega
  simp only [wordOfBytes, BitVec.toNat_or, BitVec.toNat_shiftLeft, BitVec.toNat_setWidth_of_le (show 8 ≤ 16 by decide),
    Nat.mod_eq_of_lt hfits]
  rw [← Nat.shiftLeft_add_eq_or_of_lt hlo, Nat.shiftLeft_eq]

/-- The address of the second opcode byte: the 16-bit sum PC + 1 and the sum in `Nat` have the same low 12 bits. -/
theorem setWidth_succ (pc : Word) : ((pc + 1).setWidth 12 : Addr) = BitVec.ofNat 12 (pc.toNat + 1) := by
  rw [BitVec.setWidth_add _ _ (by decide), BitVec.ofNat_add, BitVec.ofNat_toNat]
  rfl

/-- The opcode a state fetches, with no premise on PC: past `0xFFF` both sides read modulo 4096. -/
theorem Machine.State.fetchWord_toNat (s : Machine.State) :
    s.fetchWord.toNat = (s.readByte (BitVec.ofNat 12 s.pc.toNat)).toNat * 256 +
      (s.readByte (BitVec.ofNat 12 (s.pc.toNat + 1))).toNat := by
  rw [fetchWord, wordOfBytes_toNat, setWidth_succ, BitVec.ofNat_toNat]

/-- Settles O9: the opcode is its high byte times 256 plus its low byte, and the 12-bit addresses read are PC and PC + 1. -/
theorem fetchIsBigEndian : Obligations.FetchIsBigEndian := fun s _ => s.fetchWord_toNat

end Sys2Proof
end

section
/-! SUPPORT. Control flow (41_control_flow.md): what each instruction's execute phase answers, in the shared operations, and
from these the effect on PC, SP and the stack with the frame. -/

namespace Sys2Proof.Machine

/-! ### The execute phase in the shared operations -/

theorem exec_ret (s : State) : exec .ret s = .next (s.dropTop.setPc (s.stackAt s.dropTop.sp)) := rfl

theorem exec_jp (nnn : Addr) (s : State) : exec (.jp nnn) s = .next (s.setPc (zextAddr nnn)) := rfl

theorem exec_call (nnn : Addr) (s : State) : exec (.call nnn) s = .next ((s.push s.pc).setPc (zextAddr nnn)) := rfl

theorem exec_seImm (x : Reg) (kk : Byte) (s : State) : exec (.seImm x kk) s = .next (s.skipIf (s.getV x == kk)) := rfl

theorem exec_sneImm (x : Reg) (kk : Byte) (s : State) : exec (.sneImm x kk) s = .next (s.skipIf (s.getV x != kk)) := rfl

/-! ### What the shared operations leave in SP, the stack and PC -/

@[simp] theorem State.stackAt_setPc (s : State) (w : Word) (j : Nibble) : (s.setPc w).stackAt j = s.stackAt j := rfl

theorem State.skipIf_pc_toNat (s : State) (c : Bool) :
    (s.skipIf c).pc.toNat = if c then (s.pc.toNat + 2) % 65536 else s.pc.toNat := by
  cases c with
  | false => rfl
  | true => exact BitVec.toNat_add s.pc 2

/-- Two updates in turn change at most what either of them changes. -/
theorem SameBut.append {ps qs : List Part} {s t u : State} (h1 : SameBut ps s t) (h2 : SameBut qs t u) :
    SameBut (ps ++ qs) s u :=
  (h1.mono (List.subset_append_left ps qs)).trans (h2.mono (List.subset_append_right ps qs))

/-! ### The obligations -/

/-- Settles O26: SP moves by 15 modulo 16, and the frame, which lists SP and PC only, keeps the entry on the stack. -/
theorem retPopsIntoPc : Obligations.RetPopsIntoPc :=
  ⟨rfl, fun s => ⟨_, exec_ret s, BitVec.toNat_add s.sp 15, rfl, (sameBut_dropTop s).append (sameBut_setPc _ _)⟩⟩

/-- Settles O27: the zero-extended NNN is the same number. -/
theorem jumpSetsPc : Obligations.JumpSetsPc := fun nnn s =>
  ⟨wordNNN_toNat 0x1 nnn, _, exec_jp nnn s, zextAddr_toNat nnn, sameBut_setPc s _⟩

/-- Settles O28: the push writes the entry at SP and no other, and PC is set after it. -/
theorem callPushesTheReturnAddress : Obligations.CallPushesTheReturnAddress := by
  intro nnn s
  refine ⟨wordNNN_toNat 0x2 nnn, _, exec_call nnn s, ?_, fun j hj => ?_, BitVec.toNat_add s.sp 1, zextAddr_toNat nnn,
    (sameBut_push s s.pc).append (sameBut_setPc _ _)⟩
  · rw [State.stackAt_setPc, State.stackAt_push, if_pos rfl]
  · rw [State.stackAt_setPc, State.stackAt_push, if_neg hj]

/-- Settles O32: both instructions are one skip, on the equality and on its negation. -/
theorem skipsOnImmediate : Obligations.SkipsOnImmediate := by
  intro x kk s
  refine ⟨wordXKK_toNat 0x3 x kk, wordXKK_toNat 0x4 x kk, _, _, exec_seImm x kk s, exec_sneImm x kk s, ?_, ?_,
    sameBut_skipIf s _, sameBut_skipIf s _⟩
  · simp only [State.skipIf_pc_toNat, beq_iff_eq]
  · simp only [State.skipIf_pc_toNat, bne_iff_ne]

end Sys2Proof.Machine
end

section
/-! SUPPORT. Registers and ALU (42_alu.md): what each load's execute phase answers, in the shared operations, and the
frame of a register write in terms of the registers. -/

namespace Sys2Proof.Machine

/-! ### The execute phase in the shared operations -/

theorem exec_ldImm (x : Reg) (kk : Byte) (s : State) : exec (.ldImm x kk) s = .next (s.setV x kk) := rfl

theorem exec_ldReg (x y : Reg) (s : State) : exec (.ldReg x y) s = .next (s.setV x (s.getV y)) := rfl

/-! ### The registers a register write leaves -/

theorem regsSameBut_setV (s : State) (x : Reg) (b : Byte) : RegsSameBut [x] s (s.setV x b) := by
  intro r hr
  rw [State.getV_setV, if_neg (List.ne_of_not_mem_cons hr)]

/-! ### The obligations -/

/-- Settles O34: each load is one register write, of KK or of Vy as it stood before; X = F is no case apart. -/
theorem loadsOfRegisters : Obligations.LoadsOfRegisters := by
  intro x y kk s
  exact ⟨wordXKK_toNat 0x6 x kk, wordXYN_toNat 0x8 x y 0x0, _, _, exec_ldImm x kk s, exec_ldReg x y s,
    s.getV_setV_self x kk, s.getV_setV_self x (s.getV y), regsSameBut_setV s x kk, regsSameBut_setV s x (s.getV y),
    sameBut_setV s x kk, sameBut_setV s x (s.getV y)⟩

end Sys2Proof.Machine
end

section
/-! SUPPORT. Address register and block load (43_index_memory.md): what each one's execute phase answers, in the shared
operations, and what the block load and the post-increment leave in the registers and in I. -/

namespace Sys2Proof.Machine

/-! ### The execute phase in the shared operations -/

theorem exec_ldI (nnn : Addr) (s : State) : exec (.ldI nnn) s = .next (s.setI (zextAddr nnn)) := rfl

theorem exec_ldRegs (x : Reg) (s : State) :
    exec (.ldRegs x) s = .next ((s.loadRegs (regsUpTo x)).advanceI x) := rfl

/-! ### What the block load and the post-increment leave in the registers and in I -/

theorem State.getV_advanceI (s : State) (x r : Reg) : (s.advanceI x).getV r = s.getV r := rfl

theorem State.advanceI_i_toNat (s : State) (x : Reg) : (s.advanceI x).i.toNat = (s.i.toNat + x.val + 1) % 65536 := by
  rw [State.advanceI_eq, State.setI_i, BitVec.toNat_add, BitVec.toNat_ofNat, Nat.add_mod_mod, Nat.add_assoc]

theorem sameBut_advanceI (s : State) (x : Reg) : SameBut [.i] s (s.advanceI x) := sameBut_setI s _

theorem State.loadRegs_i (s : State) (rs : List Reg) : (s.loadRegs rs).i = s.i := by rw [State.loadRegs_eq]

/-! ### The obligations -/

/-- Settles O40: the zero-extended NNN is the same number, so the upper four bits of I are clear. -/
theorem loadIndexRegister : Obligations.LoadIndexRegister := fun nnn s =>
  ⟨wordNNN_toNat 0xA nnn, _, exec_ldI nnn s, zextAddr_toNat nnn, sameBut_setI s _⟩

/-- Settles O45: the block load writes the registers up to Vx and no other, each with its byte at the I from before the
post-increment; X = F is no case apart. -/
theorem loadRegistersFromBlock : Obligations.LoadRegistersFromBlock := by
  intro x s
  refine ⟨?_, _, exec_ldRegs x s, fun r hr => ?_, fun r hr => ?_, ?_,
    (sameBut_loadRegs s (regsUpTo x)).append (sameBut_advanceI _ x)⟩
  · have hword : (encode (.ldRegs x)).toNat = 0xF000 + 256 * x.val + 0x65 := wordXKK_toNat 0xF x 0x65
    omega
  · rw [State.getV_advanceI, State.getV_loadRegs, if_pos ((mem_regsUpTo x r).mpr hr), State.dataByte]
  · rw [State.getV_advanceI, State.getV_loadRegs, if_neg (mt (mem_regsUpTo x r).mp (not_le_of_gt hr))]
  · rw [State.advanceI_i_toNat, State.loadRegs_i]

end Sys2Proof.Machine
end

section
/-! SUPPORT. Display (45_display.md): the clear's execute phase in the shared operations. -/

namespace Sys2Proof.Machine

/-! ### The execute phase in the shared operations -/

theorem exec_cls (s : State) : exec .cls s = .next (s.setDisp blankDisplay) := rfl

/-! ### The obligations -/

/-- Settles O48: the clear puts the blank display in place of the old one, and the frame, which lists the display only,
keeps VF with the rest. -/
theorem clearDisplay : Obligations.ClearDisplay :=
  ⟨rfl, fun s => ⟨_, exec_cls s, pixelAt_blankDisplay, sameBut_setDisp s blankDisplay⟩⟩

end Sys2Proof.Machine
end

section
/-! SUPPORT. Keys and timers (46_keys_timers.md): what each delay timer move's execute phase answers, in the shared
operations, and the value of a group F opcode with its fixed parts taken together. -/

namespace Sys2Proof.Machine

/-! ### The execute phase in the shared operations -/

theorem exec_ldVxDt (x : Reg) (s : State) : exec (.ldVxDt x) s = .next (s.setV x s.dt) := rfl

theorem exec_ldDt (x : Reg) (s : State) : exec (.ldDt x) s = .next (s.setDt (s.getV x)) := rfl

/-! ### The value of a group F opcode -/

theorem wordFXKK_toNat (x : Reg) (kk : Byte) : (wordXKK 0xF x kk).toNat = 0xF000 + kk.toNat + 256 * x.val :=
  (wordXKK_toNat 0xF x kk).trans (Nat.add_right_comm _ _ _)

/-! ### The obligations -/

/-- Settles O53: the read is one register write of DT, where X = F is no case apart, and the set is one write of DT, whose
frame keeps every register. -/
theorem delayTimerMoves : Obligations.DelayTimerMoves := by
  intro x s
  exact ⟨wordFXKK_toNat x 0x07, wordFXKK_toNat x 0x15, _, _, exec_ldVxDt x s, exec_ldDt x s,
    s.getV_setV_self x s.dt, regsSameBut_setV s x s.dt, sameBut_setV s x s.dt,
    s.setDt_dt (s.getV x), sameBut_setDt s (s.getV x)⟩

end Sys2Proof.Machine
end

section
/-! SUPPORT. The decoder and the encoder as inverses (30_encoding.md R44 to R47), and which opcodes decode, in numbers
(R48, R49). -/

namespace Sys2Proof

/-! ### An instruction is read back from its opcode -/

theorem decode_encode {i : Instr} (hi : i.WellFormed) : decode (encode i) = .ok i := by
  cases i with
  | cls | ret => rfl
  | jp | call | ldI | jpV0 | seImm | sneImm | ldImm | addImm | rnd => simp [encode, decode]
  | seReg | sneReg => simp [encode, decode, decodeXY0]
  | ldReg | orReg | andReg | xorReg | addReg | sub | shr | subn | shl => simp [encode, decode, decodeGroup8]
  | drw x y n =>
    have hn : n % 16 = n := Nat.mod_eq_of_lt ((wellFormed_drw x y n).mp hi)
    simp [encode, decode, hn]
  | skp | sknp => simp [encode, decode, decodeGroupE]
  | ldVxDt | ldK | ldDt | ldSt | addI | ldF | bcd | stRegs | ldRegs => simp [encode, decode, decodeGroupF]

theorem decodeBytes_encodeBytes {i : Instr} (hi : i.WellFormed) (rest : List Byte) :
    decodeBytes (encodeBytes i ++ rest) = .ok (i, rest) := by
  simp [encodeBytes, decodeBytes, decode_encode hi]

/-- Settles O1: the decoder dispatches on fields that the opcode's word gives back, and two bytes are its opcode. -/
theorem decodeOfEncodeIsIdentity : Obligations.DecodeOfEncodeIsIdentity := fun _ rest hi =>
  ⟨decode_encode hi, decodeBytes_encodeBytes hi rest⟩

/-! ### An instruction that is decoded is well formed -/

/-- The height of a decoded sprite is the field `N`: only group D answers a `DRW`. -/
theorem height_of_decode {op : Word} {x y : Reg} {n : Nat} (h : decode op = .ok (.drw x y n)) :
    n = (opN op).toNat := by
  have hop : wordXYN 0xD x y (BitVec.ofNat 4 n) = op := encode_of_decode h
  have hg : opGroup op = 0xD := by rw [← hop, opGroup_wordXYN]
  simp only [decode, hg] at h
  cases h
  rfl

theorem wellFormed_of_decode {op : Word} {i : Instr} (h : decode op = .ok i) : i.WellFormed := by
  cases i with
  | drw x y n =>
    rw [wellFormed_drw, height_of_decode h]
    exact (opN op).isLt
  | _ => rfl

/-- Settles O2: the encoder puts the decoded fields back, and a sprite height comes from a field of four bits. -/
theorem encodeOfDecodeIsIdentity : Obligations.EncodeOfDecodeIsIdentity := fun _ _ h =>
  ⟨wellFormed_of_decode h, encode_of_decode h⟩

/-! ### Opcodes in numbers -/

/-- Settles O3: each opcode is a word of one of the three formats, whose value is the sum of its fields at their places. -/
theorem encodingsFollowTheirPatterns : Obligations.EncodingsFollowTheirPatterns := by
  intro x y n kk nnn hn
  refine ⟨rfl, ?_, ?_, ?_, ?_, ?_⟩
  · simp [encode, wordNNN_toNat]
  · simp [encode, wordXKK_toNat]
  · simp only [List.map_cons, List.map_nil, encode, wordXYN_toNat, List.cons.injEq, and_true, BitVec.reduceToNat]
    omega
  · rw [encode, wordXYN_toNat, BitVec.toNat_ofNat, Nat.mod_eq_of_lt hn]
    rfl
  · simp only [List.map_cons, List.map_nil, encode, wordXKK_toNat, List.cons.injEq, and_true, BitVec.reduceToNat]
    omega

theorem opGroup_toNat (op : Word) : (opGroup op).toNat = op.toNat / 4096 := by
  have := op.isLt
  rw [opGroup, BitVec.extractLsb'_toNat, Nat.shiftRight_eq_div_pow]
  omega

theorem opN_toNat (op : Word) : (opN op).toNat = op.toNat % 16 := by
  rw [opN, BitVec.extractLsb'_toNat, Nat.shiftRight_zero]

theorem opKK_toNat (op : Word) : (opKK op).toNat = op.toNat % 256 := by
  rw [opKK, BitVec.extractLsb'_toNat, Nat.shiftRight_zero]

/-! ### Which opcodes decode -/

/-- The opcode `g * 4096 + n` is an instruction, by R47's rows of group `g` (`isOk_decode`). -/
def decodableInGroup (g n : Nat) : Bool :=
  match g with
  | 0x0 => [0x0E0, 0x0EE].contains n
  | 0x5 | 0x9 => [0x0].contains (n % 16)
  | 0x8 => [0x0, 0x1, 0x2, 0x3, 0x4, 0x5, 0x6, 0x7, 0xE].contains (n % 16)
  | 0xE => [0x9E, 0xA1].contains (n % 256)
  | 0xF => [0x07, 0x0A, 0x15, 0x18, 0x1E, 0x29, 0x33, 0x55, 0x65].contains (n % 256)
  | _ => true

section
variable (op : Word)

theorem isOk_decodeGroup0 : (decodeGroup0 op).isOk = [0x0E0, 0x0EE].contains op.toNat := by
  have hval : ∀ n : Nat, n < 65536 → (op = BitVec.ofNat 16 n ↔ op.toNat = n) := fun n hn => by
    rw [← BitVec.toNat_inj, BitVec.toNat_ofNat, Nat.mod_eq_of_lt hn]
  unfold decodeGroup0
  split_ifs with hcls hret
  · rw [hcls]; rfl
  · rw [hret]; rfl
  · rw [hval _ (by decide)] at hcls hret
    simp [Except.isOk, Except.toBool, hcls, hret]

theorem isOk_decodeXY0 (f : Reg → Reg → Instr) : (decodeXY0 op f).isOk = [0x0].contains (op.toNat % 16) := by
  have hval : opN op = 0 ↔ op.toNat % 16 = 0 := by rw [← opN_toNat, ← BitVec.toNat_inj]; rfl
  unfold decodeXY0
  split_ifs with hn <;> rw [hval] at hn <;> simp [Except.isOk, Except.toBool, hn]

theorem isOk_decodeGroup8 : (decodeGroup8 op).isOk =
    [0x0, 0x1, 0x2, 0x3, 0x4, 0x5, 0x6, 0x7, 0xE].contains (op.toNat % 16) := by
  unfold decodeGroup8
  rw [opN_toNat]
  split <;> simp_all [Except.isOk, Except.toBool]

theorem isOk_decodeGroupE : (decodeGroupE op).isOk = [0x9E, 0xA1].contains (op.toNat % 256) := by
  unfold decodeGroupE
  rw [opKK_toNat]
  split <;> simp_all [Except.isOk, Except.toBool]

theorem isOk_decodeGroupF : (decodeGroupF op).isOk =
    [0x07, 0x0A, 0x15, 0x18, 0x1E, 0x29, 0x33, 0x55, 0x65].contains (op.toNat % 256) := by
  unfold decodeGroupF
  rw [opKK_toNat]
  split <;> simp_all [Except.isOk, Except.toBool]

theorem isOk_decode : (decode op).isOk = decodableInGroup (op.toNat / 4096) (op.toNat % 4096) := by
  have hlt := (opGroup op).isLt
  have h16 : op.toNat % 4096 % 16 = op.toNat % 16 := by omega
  have h256 : op.toNat % 4096 % 256 = op.toNat % 256 := by omega
  unfold decode
  rw [opGroup_toNat] at hlt ⊢
  interval_cases hg : op.toNat / 4096
  -- One goal per group, 0 to F in order; where `rfl` closes it, every opcode of the group decodes.
  · exact (isOk_decodeGroup0 op).trans (by rw [show op.toNat % 4096 = op.toNat by omega]; rfl)
  · rfl
  · rfl
  · rfl
  · rfl
  · exact (isOk_decodeXY0 op _).trans (by rw [← h16]; rfl)
  · rfl
  · rfl
  · exact (isOk_decodeGroup8 op).trans (by rw [← h16]; rfl)
  · exact (isOk_decodeXY0 op _).trans (by rw [← h16]; rfl)
  · rfl
  · rfl
  · rfl
  · rfl
  · exact (isOk_decodeGroupE op).trans (by rw [← h256]; rfl)
  · exact (isOk_decodeGroupF op).trans (by rw [← h256]; rfl)

end

section
variable {op : Word} {e : DecodeError}

theorem decodeGroup0_eq_error (h : decodeGroup0 op = .error e) : e = .undecodableOpcode op := by
  unfold decodeGroup0 at h
  split_ifs at h
  cases h
  rfl

theorem decodeXY0_eq_error {f : Reg → Reg → Instr} (h : decodeXY0 op f = .error e) : e = .undecodableOpcode op := by
  unfold decodeXY0 at h
  split_ifs at h
  cases h
  rfl

theorem decodeGroup8_eq_error (h : decodeGroup8 op = .error e) : e = .undecodableOpcode op := by
  unfold decodeGroup8 at h
  split at h <;> cases h
  rfl

theorem decodeGroupE_eq_error (h : decodeGroupE op = .error e) : e = .undecodableOpcode op := by
  unfold decodeGroupE at h
  split at h <;> cases h
  rfl

theorem decodeGroupF_eq_error (h : decodeGroupF op = .error e) : e = .undecodableOpcode op := by
  unfold decodeGroupF at h
  split at h <;> cases h
  rfl

/-- The decoder has one way to reject: it names the opcode it was given. -/
theorem decode_eq_error (h : decode op = .error e) : e = .undecodableOpcode op := by
  have hlt := (opGroup op).isLt
  unfold decode at h
  interval_cases hg : (opGroup op).toNat
  -- One goal per group, 0 to F in order; `cases` closes the groups of which every opcode decodes.
  · exact decodeGroup0_eq_error h
  · cases h
  · cases h
  · cases h
  · cases h
  · exact decodeXY0_eq_error h
  · cases h
  · cases h
  · exact decodeGroup8_eq_error h
  · exact decodeXY0_eq_error h
  · cases h
  · cases h
  · cases h
  · cases h
  · exact decodeGroupE_eq_error h
  · exact decodeGroupF_eq_error h

theorem isOk_decode_eq_false : (decode op).isOk = false ↔ decode op = .error (.undecodableOpcode op) := by
  cases h : decode op with
  | error e => simp [decode_eq_error h, Except.isOk, Except.toBool]
  | ok i => simp [Except.isOk, Except.toBool]

end

/-- Settles O5: which opcodes decode is a matter of the group and of the bits below it, group by group. -/
theorem undecodableOpcodesByGroup : Obligations.UndecodableOpcodesByGroup := by
  intro op
  have hlt := op.isLt
  have hcls : op = 0x00E0 ↔ op.toNat = 0xE0 := BitVec.toNat_inj.symm
  have hret : op = 0x00EE ↔ op.toNat = 0xEE := BitVec.toNat_inj.symm
  rw [← isOk_decode_eq_false, isOk_decode, Ne, Ne, hcls, hret]
  have hg : op.toNat / 4096 < 16 := by omega
  interval_cases h : op.toNat / 4096 <;> simp [decodableInGroup] <;> omega

/-! ### How many opcodes decode -/

/-- Among the first `k * m` numbers as many meet a condition on the remainder modulo `m` as `k` times those below `m`. -/
theorem countP_range_mod (p : Nat → Bool) (m k : Nat) :
    (List.range (k * m)).countP (fun n => p (n % m)) = k * (List.range m).countP p := by
  induction k with
  | zero => simp
  | succ k ih =>
    have hblock : ((List.range m).map (k * m + ·)).countP (fun n => p (n % m)) = (List.range m).countP p := by
      rw [List.countP_map]
      refine List.countP_congr fun n hn => ?_
      simp [Nat.mod_eq_of_lt (List.mem_range.mp hn)]
    rw [Nat.succ_mul, List.range_add, List.countP_append, ih, hblock, Nat.succ_mul]

/-- As many of the first `n` numbers stand in a list as the list is long, if it repeats none and they are all below `n`. -/
theorem countP_range_contains {l : List Nat} (hl : l.Nodup) {n : Nat} (hlt : ∀ a ∈ l, a < n) :
    (List.range n).countP l.contains = l.length := by
  rw [List.countP_eq_length_filter]
  refine ((List.perm_ext_iff_of_nodup (List.nodup_range.filter _) hl).mpr fun a => ?_).length_eq
  simpa using hlt a

theorem countP_decodable_all {p : Nat → Bool} (hp : ∀ n, p n = true) : (List.range 4096).countP p = 4096 := by
  rw [List.countP_eq_length.mpr fun n _ => hp n, List.length_range]

theorem countP_decodable (g : Fin 16) : (List.range 4096).countP (decodableInGroup g.val) =
    [2, 4096, 4096, 4096, 4096, 256, 4096, 4096, 2304, 256, 4096, 4096, 4096, 4096, 32, 144].getD g.val 0 := by
  -- The sub-opcodes of a group fill the low nibble or the low byte, and every value of it comes up equally often.
  have low4 : ∀ l : List Nat, l.Nodup → (∀ a ∈ l, a < 16) →
      (List.range 4096).countP (fun n => l.contains (n % 16)) = 256 * l.length := fun l hl hlt => by
    rw [← countP_range_contains hl hlt, ← countP_range_mod]
  have low8 : ∀ l : List Nat, l.Nodup → (∀ a ∈ l, a < 256) →
      (List.range 4096).countP (fun n => l.contains (n % 256)) = 16 * l.length := fun l hl hlt => by
    rw [← countP_range_contains hl hlt, ← countP_range_mod]
  fin_cases g
  -- One goal per group, 0 to F in order.
  · exact countP_range_contains (l := [0x0E0, 0x0EE]) (by decide) (by decide)
  · exact countP_decodable_all fun _ => rfl
  · exact countP_decodable_all fun _ => rfl
  · exact countP_decodable_all fun _ => rfl
  · exact countP_decodable_all fun _ => rfl
  · exact low4 [0] (by decide) (by decide)
  · exact countP_decodable_all fun _ => rfl
  · exact countP_decodable_all fun _ => rfl
  · exact low4 [0x0, 0x1, 0x2, 0x3, 0x4, 0x5, 0x6, 0x7, 0xE] (by decide) (by decide)
  · exact low4 [0] (by decide) (by decide)
  · exact countP_decodable_all fun _ => rfl
  · exact countP_decodable_all fun _ => rfl
  · exact countP_decodable_all fun _ => rfl
  · exact countP_decodable_all fun _ => rfl
  · exact low8 [0x9E, 0xA1] (by decide) (by decide)
  · exact low8 [0x07, 0x0A, 0x15, 0x18, 0x1E, 0x29, 0x33, 0x55, 0x65] (by decide) (by decide)

/-- Settles O6: a group's opcodes decode by a condition on one remainder, met as often in every period. -/
theorem decodableOpcodeCounts : Obligations.DecodableOpcodeCounts := by
  intro g
  rw [← countP_decodable g]
  refine List.countP_congr fun n hn => ?_
  have hg := g.isLt
  have hn := List.mem_range.mp hn
  rw [isOk_decode, BitVec.toNat_ofNat, show (g.val * 4096 + n) % 2 ^ 16 / 4096 = g.val by omega,
    show (g.val * 4096 + n) % 2 ^ 16 % 4096 = n by omega]

/-- Settles O7: each word is fixed, and the decoder is run on it. -/
theorem specExampleWordsDecode : Obligations.SpecExampleWordsDecode := by
  unfold Obligations.SpecExampleWordsDecode
  decide

end Sys2Proof
end

section
/-! SUPPORT. What the execute phase of each further instruction answers, in the shared operations; where an instruction
can stop, when it answers a next state and which. -/

namespace Sys2Proof.Machine

/-! ### Instructions that always complete -/

theorem exec_jpV0 (nnn : Addr) (s : State) :
    exec (.jpV0 nnn) s = .next (s.setPc (zextAddr nnn + (s.getV 0).setWidth 16)) := rfl

theorem exec_seReg (x y : Reg) (s : State) : exec (.seReg x y) s = .next (s.skipIf (s.getV x == s.getV y)) := rfl

theorem exec_sneReg (x y : Reg) (s : State) : exec (.sneReg x y) s = .next (s.skipIf (s.getV x != s.getV y)) := rfl

theorem exec_addImm (x : Reg) (kk : Byte) (s : State) : exec (.addImm x kk) s = .next (s.setV x (s.getV x + kk)) := rfl

theorem exec_orReg (x y : Reg) (s : State) : exec (.orReg x y) s = .next (s.setV x (s.getV x ||| s.getV y)) := rfl

theorem exec_andReg (x y : Reg) (s : State) : exec (.andReg x y) s = .next (s.setV x (s.getV x &&& s.getV y)) := rfl

theorem exec_xorReg (x y : Reg) (s : State) : exec (.xorReg x y) s = .next (s.setV x (s.getV x ^^^ s.getV y)) := rfl

theorem exec_addReg (x y : Reg) (s : State) : exec (.addReg x y) s =
    .next (s.setResultAndFlag x (s.getV x + s.getV y) (carryOut (s.getV x) (s.getV y))) := rfl

theorem exec_sub (x y : Reg) (s : State) : exec (.sub x y) s =
    .next (s.setResultAndFlag x (s.getV x - s.getV y) (notBorrow (s.getV x) (s.getV y))) := rfl

theorem exec_subn (x y : Reg) (s : State) : exec (.subn x y) s =
    .next (s.setResultAndFlag x (s.getV y - s.getV x) (notBorrow (s.getV y) (s.getV x))) := rfl

theorem exec_shr (x y : Reg) (s : State) : exec (.shr x y) s =
    .next (s.setResultAndFlag x (s.shiftOperand x y >>> 1) (shiftedOutLow (s.shiftOperand x y))) := rfl

theorem exec_shl (x y : Reg) (s : State) : exec (.shl x y) s =
    .next (s.setResultAndFlag x (s.shiftOperand x y <<< 1) (shiftedOutHigh (s.shiftOperand x y))) := rfl

theorem exec_addI (x : Reg) (s : State) : exec (.addI x) s = .next (s.setI (s.i + (s.getV x).setWidth 16)) := rfl

theorem exec_ldSt (x : Reg) (s : State) :
    exec (.ldSt x) s = .next ((s.setSt (s.getV x)).cueOnWrite (s.getV x)) := rfl

theorem exec_rnd (x : Reg) (kk : Byte) (s : State) :
    exec (.rnd x kk) s = .next (s.consumeDraw.setV x (s.nextDraw &&& kk)) := rfl

/-! ### Instructions that can stop, and the key wait -/

section
variable {x y : Reg} {s t : State}

theorem exec_drw_eq_next {n : Nat} : exec (.drw x y n) s = .next t ↔ n ≠ 0 ∧
    t = (s.setDisp (s.blit (s.getV x) (s.getV y) n).disp).setV vf (flagByte (s.blit (s.getV x) (s.getV y) n).hit) := by
  by_cases hn : n = 0 <;> simp [exec, execDrw, hn, eq_comm]

theorem exec_ldF_eq_next :
    exec (.ldF x) s = .next t ↔ ∃ d, hexOperand (s.getV x) = some d ∧ t = s.setI (glyphAddr d) := by
  cases hd : hexOperand (s.getV x) <;> simp [exec, execLdF, hd, eq_comm]

theorem exec_bcd_eq_next :
    exec (.bcd x) s = .next t ↔ storesLow s.i 3 = false ∧ t = s.storeBytes (bcdDigits (s.getV x)) := by
  cases hlow : storesLow s.i 3 <;> simp [exec, execBcd, hlow, eq_comm]

theorem exec_stRegs_eq_next : exec (.stRegs x) s = .next t ↔
    storesLow s.i (x.val + 1) = false ∧ t = (s.storeBytes ((regsUpTo x).map s.getV)).advanceI x := by
  cases hlow : storesLow s.i (x.val + 1) <;> simp [exec, execStRegs, hlow, eq_comm]

theorem exec_skp_eq_next :
    exec (.skp x) s = .next t ↔ ∃ k, hexOperand (s.getV x) = some k ∧ t = s.skipIf (s.keyAt k) := by
  cases hk : hexOperand (s.getV x) <;> simp [exec, execSkp, hk, eq_comm]

theorem exec_sknp_eq_next :
    exec (.sknp x) s = .next t ↔ ∃ k, hexOperand (s.getV x) = some k ∧ t = s.skipIf (!s.keyAt k) := by
  cases hk : hexOperand (s.getV x) <;> simp [exec, execSknp, hk, eq_comm]

theorem exec_ldK_eq_next : exec (.ldK x) s = .next t ↔
    (∃ k, s.lowestKey = some k ∧ t = s.setV x (keyByte k)) ∨ s.lowestKey = none ∧ t = s.restorePc := by
  cases hk : s.lowestKey <;> simp [exec, execLdK, hk, eq_comm]

end

/-! ### Where the execute phase stops -/

/-- The case of R50 an instruction is in, if it is in one (`exec_outcome`). -/
def stopReason (i : Instr) (s : State) : Option Unspecified :=
  match i with
  | .drw _ _ n => if n = 0 then some .spriteHeightZero else none
  | .skp x | .sknp x => if 15 < (s.getV x).toNat then some .keyIndex else none
  | .ldF x => if 15 < (s.getV x).toNat then some .fontDigit else none
  | .bcd _ => if storesLow s.i 3 then some .lowStore else none
  | .stRegs x => if storesLow s.i (x.val + 1) then some .lowStore else none
  | _ => none

/-- The execute phase answers a next state, or stops for its reason; it is never refused. -/
theorem exec_outcome (i : Instr) (s : State) :
    (∃ t, exec i s = .next t ∧ stopReason i s = none) ∨
    ∃ u, exec i s = .fault (.unspecified u) ∧ stopReason i s = some u := by
  cases i with
  | drw x y n => by_cases hn : n = 0 <;> simp [exec, execDrw, stopReason, hn]
  | bcd x => cases hlow : storesLow s.i 3 <;> simp [exec, execBcd, stopReason, hlow]
  | stRegs x => cases hlow : storesLow s.i (x.val + 1) <;> simp [exec, execStRegs, stopReason, hlow]
  | skp x | sknp x | ldF x =>
    cases hk : hexOperand (s.getV x) with
    | none =>
      have hbig := hexOperand_eq_none.mp hk
      simp [exec, execSkp, execSknp, execLdF, stopReason, hk, hbig]
    | some k =>
      have hsmall : ¬15 < (s.getV x).toNat := fun hbig => by simp [hexOperand_eq_none.mpr hbig] at hk
      simp [exec, execSkp, execSknp, execLdF, stopReason, hk, hsmall]
  | ldK x => cases hk : s.lowestKey <;> simp [exec, execLdK, stopReason, hk]
  | _ => exact .inl ⟨_, rfl, rfl⟩

theorem exec_ne_refused (i : Instr) (s : State) (e : Refusal) : exec i s ≠ .refused e := by
  obtain ⟨t, h, _⟩ | ⟨u, h, _⟩ := exec_outcome i s <;> simp [h]

theorem exec_eq_fault {i : Instr} {s : State} {e : Fault} :
    exec i s = .fault e ↔ ∃ u, stopReason i s = some u ∧ e = .unspecified u := by
  obtain ⟨t, h, hr⟩ | ⟨u, h, hr⟩ := exec_outcome i s <;> simp [h, hr, eq_comm]

theorem storesLow_eq_true_iff_mod {i : Word} {n : Nat} :
    storesLow i n = true ↔ ∃ k, k < n ∧ (i.toNat + k) % 4096 < 0x200 := storesLow_eq_true

theorem stopReason_eq_some {i : Instr} {s : State} {u : Unspecified} : stopReason i s = some u ↔
    (u = .spriteHeightZero ∧ ∃ x y, i = .drw x y 0) ∨
    (u = .keyIndex ∧ ∃ x, (i = .skp x ∨ i = .sknp x) ∧ 15 < (s.getV x).toNat) ∨
    (u = .fontDigit ∧ ∃ x, i = .ldF x ∧ 15 < (s.getV x).toNat) ∨
    (u = .lowStore ∧ ∃ x : Reg, (i = .bcd x ∧ storesLow s.i 3 = true) ∨
      (i = .stRegs x ∧ storesLow s.i (x.val + 1) = true)) := by
  cases i with
  | drw | skp | sknp | ldF | bcd | stRegs => cases u <;> simp [stopReason]
  | _ => simp [stopReason]

/-- Settles O19: the execute phase stops when the instruction is in a case of R50, under that case's name. -/
theorem stopsExactlyWhereUnspecified : Obligations.StopsExactlyWhereUnspecified := by
  intro i s
  refine ⟨exec_ne_refused i s, fun e => ?_⟩
  obtain ⟨u⟩ := e
  simp only [exec_eq_fault, Fault.unspecified.injEq, exists_eq_right', stopReason_eq_some, storesLow_eq_true_iff_mod,
    Nat.lt_succ_iff]

end Sys2Proof.Machine
end

section
/-! SUPPORT. What the execute phase can change, over all instructions: the registers (10_state.md R15), memory (20_memory.md
R31) and every other part; and that it reads neither ST nor the cycle counter (R20, R24). -/

namespace Sys2Proof.Machine

/-! ### Every part but V and memory -/

theorem SameBut.beside_v_mem {ps : List Part} {s t : State} (h : SameBut ps s t) : SameBut (.v :: .mem :: ps) s t :=
  h.mono fun _ hp => List.mem_cons_of_mem _ (List.mem_cons_of_mem _ hp)

theorem sameBut_setResultAndFlag (s : State) (x : Reg) (b : Byte) (f : Bool) :
    SameBut [.v] s (s.setResultAndFlag x b f) := (sameBut_setV s x b).trans (sameBut_setV _ vf _)

theorem exec_frame {i : Instr} {s t : State} (h : exec i s = .next t) :
    SameBut (.v :: .mem :: writtenParts i) s t := by
  cases i with
  | cls => cases h; exact (sameBut_setDisp s _).beside_v_mem
  | ret => cases h; exact ((sameBut_dropTop s).append (sameBut_setPc _ _)).beside_v_mem
  | call => cases h; exact ((sameBut_push s _).append (sameBut_setPc _ _)).beside_v_mem
  | jp | jpV0 => cases h; exact (sameBut_setPc s _).beside_v_mem
  | seImm | sneImm | seReg | sneReg => cases h; exact (sameBut_skipIf s _).beside_v_mem
  | skp => obtain ⟨k, _, rfl⟩ := exec_skp_eq_next.mp h; exact (sameBut_skipIf s _).beside_v_mem
  | sknp => obtain ⟨k, _, rfl⟩ := exec_sknp_eq_next.mp h; exact (sameBut_skipIf s _).beside_v_mem
  | ldImm | addImm | ldReg | orReg | andReg | xorReg | ldVxDt =>
    cases h; exact (sameBut_setV s _ _).mono (by simp)
  | addReg | sub | shr | subn | shl => cases h; exact (sameBut_setResultAndFlag s _ _ _).mono (by simp)
  | ldI | addI => cases h; exact (sameBut_setI s _).beside_v_mem
  | ldF => obtain ⟨d, _, rfl⟩ := exec_ldF_eq_next.mp h; exact (sameBut_setI s _).beside_v_mem
  | bcd => obtain ⟨_, rfl⟩ := exec_bcd_eq_next.mp h; exact (sameBut_storeBytes s _).mono (by simp)
  | stRegs =>
    obtain ⟨_, rfl⟩ := exec_stRegs_eq_next.mp h
    exact ((sameBut_storeBytes s _).append (sameBut_advanceI _ _)).mono (by simp [writtenParts])
  | ldRegs =>
    cases h; exact ((sameBut_loadRegs s _).append (sameBut_advanceI _ _)).mono (by simp [writtenParts])
  | rnd => cases h; exact ((sameBut_consumeDraw s).append (sameBut_setV _ _ _)).mono (by simp [writtenParts])
  | drw =>
    obtain ⟨_, rfl⟩ := exec_drw_eq_next.mp h
    exact ((sameBut_setDisp s _).append (sameBut_setV _ _ _)).mono (by simp [writtenParts])
  | ldK =>
    obtain ⟨k, _, rfl⟩ | ⟨_, rfl⟩ := exec_ldK_eq_next.mp h
    · exact (sameBut_setV s _ _).mono (by simp)
    · exact (sameBut_setPc s _).beside_v_mem
  | ldDt => cases h; exact (sameBut_setDt s _).beside_v_mem
  | ldSt => cases h; exact ((sameBut_setSt s _).append (sameBut_cueOnWrite _ _)).beside_v_mem

/-- Settles O18: each instruction is built from shared operations, whose frames add up to its written parts. -/
theorem partsChangeOnlyByTheirWriters : Obligations.PartsChangeOnlyByTheirWriters := fun _ _ _ h => exec_frame h

/-- The parts that no instruction writes. -/
def hostParts : List Part := [.key, .faulted, .faultCause, .cycles, .toneCue, .params]

theorem hostParts_disjoint_writtenParts (i : Instr) : ∀ p ∈ hostParts, p ∉ .v :: .mem :: writtenParts i := by
  cases i <;> simp [hostParts, writtenParts]

/-- A part that no instruction writes is the same after any execute phase. -/
theorem exec_keeps {p : Part} (hp : p ∈ hostParts) {i : Instr} {s t : State} (h : exec i s = .next t) : p.Same s t :=
  exec_frame h p (hostParts_disjoint_writtenParts i p hp)

theorem exec_params {i : Instr} {s t : State} (h : exec i s = .next t) : t.params = s.params :=
  exec_keeps (p := .params) (by decide) h

/-! ### Registers -/

theorem flagByte_eq_zero_or_one (f : Bool) : flagByte f = 0 ∨ flagByte f = 1 := by
  cases f
  · exact .inl rfl
  · exact .inr rfl

theorem State.getV_setResultAndFlag_vf (s : State) (x : Reg) (b : Byte) (f : Bool) :
    (s.setResultAndFlag x b f).getV vf = flagByte f := State.getV_setV_self _ _ _

theorem State.getV_setResultAndFlag_of_ne (s : State) {x : Reg} (hx : x ≠ vf) (b : Byte) (f : Bool) :
    (s.setResultAndFlag x b f).getV x = b := by
  rw [State.setResultAndFlag_eq, State.getV_setV, if_neg hx, State.getV_setV_self]

theorem regsSameBut_setResultAndFlag (s : State) (x : Reg) (b : Byte) (f : Bool) :
    RegsSameBut [x, vf] s (s.setResultAndFlag x b f) := by
  intro r hr
  obtain ⟨hx, hvf⟩ : r ≠ x ∧ r ≠ vf := by simpa using hr
  rw [State.setResultAndFlag_eq, State.getV_setV, if_neg hvf, State.getV_setV, if_neg hx]

theorem State.getV_skipIf (s : State) (c : Bool) (r : Reg) : (s.skipIf c).getV r = s.getV r :=
  sameBut_skipIf s c .v (by decide) r

theorem State.getV_consumeDraw (s : State) (r : Reg) : s.consumeDraw.getV r = s.getV r :=
  sameBut_consumeDraw s .v (by decide) r

theorem regsSameBut_rnd (s : State) (x : Reg) (b : Byte) : RegsSameBut [x] s (s.consumeDraw.setV x b) :=
  fun r hr => (regsSameBut_setV s.consumeDraw x b r hr).trans (s.getV_consumeDraw r)

theorem exec_regs {i : Instr} {s t : State} (h : exec i s = .next t) (r : Reg) (hr : r ∉ destRegs i)
    (hf : r = vf → writesFlag i = false) : t.getV r = s.getV r := by
  cases i with
  | ldImm | addImm | ldReg | orReg | andReg | xorReg | ldVxDt => cases h; exact regsSameBut_setV s _ _ r hr
  | addReg x | sub x | shr x | subn x | shl x =>
    have hvf : r ≠ vf := fun e => nomatch hf e
    cases h
    refine regsSameBut_setResultAndFlag s x _ _ r ?_
    simpa [destRegs, hvf] using hr
  | drw =>
    have hvf : r ≠ vf := fun e => nomatch hf e
    obtain ⟨_, rfl⟩ := exec_drw_eq_next.mp h
    exact regsSameBut_setV _ vf _ r (by simpa using hvf)
  | ldRegs x => cases h; rw [State.getV_advanceI, State.getV_loadRegs, if_neg (show r ∉ regsUpTo x from hr)]
  | rnd => cases h; exact regsSameBut_rnd s _ _ r hr
  | ldK =>
    obtain ⟨k, _, rfl⟩ | ⟨_, rfl⟩ := exec_ldK_eq_next.mp h
    · exact regsSameBut_setV s _ _ r hr
    · rfl
  | seImm | sneImm | seReg | sneReg => cases h; exact s.getV_skipIf _ r
  | skp => obtain ⟨k, _, rfl⟩ := exec_skp_eq_next.mp h; exact s.getV_skipIf _ r
  | sknp => obtain ⟨k, _, rfl⟩ := exec_sknp_eq_next.mp h; exact s.getV_skipIf _ r
  | ldF => obtain ⟨d, _, rfl⟩ := exec_ldF_eq_next.mp h; rfl
  | bcd => obtain ⟨_, rfl⟩ := exec_bcd_eq_next.mp h; rfl
  | stRegs => obtain ⟨_, rfl⟩ := exec_stRegs_eq_next.mp h; rfl
  | cls | ret | jp | call | ldI | jpV0 | ldDt | ldSt | addI => cases h; rfl

theorem exec_flag {i : Instr} {s t : State} (h : exec i s = .next t) (hf : writesFlag i = true) :
    ∃ f, t.getV vf = flagByte f := by
  cases i with
  | addReg | sub | shr | subn | shl => cases h; exact ⟨_, s.getV_setResultAndFlag_vf _ _ _⟩
  | drw => obtain ⟨_, rfl⟩ := exec_drw_eq_next.mp h; exact ⟨_, State.getV_setV_self _ _ _⟩
  | _ => cases hf

/-- Settles O16: a register write reaches one register, the flag's write comes last, and a flag is 0 or 1. -/
theorem registersChangeOnlyAsDestinationOrFlag : Obligations.RegistersChangeOnlyAsDestinationOrFlag := by
  refine fun i s t h => ⟨exec_regs h, fun hf => ?_⟩
  obtain ⟨f, hvf⟩ := exec_flag h hf
  exact hvf ▸ flagByte_eq_zero_or_one f

/-! ### Memory -/

theorem State.skipIf_mem (s : State) (c : Bool) : (s.skipIf c).mem = s.mem := by cases c <;> rfl

theorem State.loadRegs_mem (s : State) (rs : List Reg) : (s.loadRegs rs).mem = s.mem := by rw [State.loadRegs_eq]

theorem State.consumeDraw_mem (s : State) : s.consumeDraw.mem = s.mem := by rw [State.consumeDraw_eq]

/-- How many bytes an instruction stores at I. -/
def storeLength : Instr → Nat
  | .bcd _ => 3
  | .stRegs x => x.val + 1
  | _ => 0

/-- The memory after an execute phase is the memory before it with a block stored at I, none of it below `0x200`; the block
is empty for all but `FX33` and `FX55`. -/
theorem exec_mem {i : Instr} {s t : State} (h : exec i s = .next t) :
    ∃ bs : List Byte, bs.length = storeLength i ∧ t.mem = writeBytes s.params.font s.mem s.i 0 bs ∧
      storesLow s.i (storeLength i) = false := by
  cases i with
  | bcd x =>
    obtain ⟨hlow, rfl⟩ := exec_bcd_eq_next.mp h
    exact ⟨bcdDigits (s.getV x), rfl, rfl, hlow⟩
  | stRegs x =>
    obtain ⟨hlow, rfl⟩ := exec_stRegs_eq_next.mp h
    exact ⟨(regsUpTo x).map s.getV, by rw [List.length_map, regsUpTo_length]; rfl, rfl, hlow⟩
  | drw => obtain ⟨_, rfl⟩ := exec_drw_eq_next.mp h; exact ⟨[], rfl, rfl, rfl⟩
  | ldF => obtain ⟨d, _, rfl⟩ := exec_ldF_eq_next.mp h; exact ⟨[], rfl, rfl, rfl⟩
  | skp => obtain ⟨k, _, rfl⟩ := exec_skp_eq_next.mp h; exact ⟨[], rfl, s.skipIf_mem _, rfl⟩
  | sknp => obtain ⟨k, _, rfl⟩ := exec_sknp_eq_next.mp h; exact ⟨[], rfl, s.skipIf_mem _, rfl⟩
  | ldK =>
    obtain ⟨k, _, rfl⟩ | ⟨_, rfl⟩ := exec_ldK_eq_next.mp h
    · exact ⟨[], rfl, rfl, rfl⟩
    · exact ⟨[], rfl, rfl, rfl⟩
  | seImm | sneImm | seReg | sneReg => cases h; exact ⟨[], rfl, s.skipIf_mem _, rfl⟩
  | ldRegs => cases h; exact ⟨[], rfl, s.loadRegs_mem _, rfl⟩
  | rnd => cases h; exact ⟨[], rfl, s.consumeDraw_mem, rfl⟩
  | _ => cases h; exact ⟨[], rfl, rfl, rfl⟩

theorem exec_mem_wf {i : Instr} {s t : State} (hwf : s.mem.wf s.params.font = true) (h : exec i s = .next t) :
    t.mem.wf t.params.font = true := by
  obtain ⟨bs, _, hmem, _⟩ := exec_mem h
  rw [exec_params h, hmem]
  exact wf_writeBytes hwf s.i 0 bs

/-- A byte that an execute phase changes lies in the block it stores, and so not below `0x200`. -/
theorem exec_readByte {i : Instr} {s t : State} (hwf : s.mem.wf s.params.font = true) (h : exec i s = .next t)
    {a : Addr} (ha : t.readByte a ≠ s.readByte a) : 0x200 ≤ a.toNat ∧ ∃ k, k < storeLength i ∧ ea s.i k = a := by
  obtain ⟨bs, hlen, hmem, hlow⟩ := exec_mem h
  obtain ⟨k, hk, rfl⟩ : ∃ k, k < storeLength i ∧ ea s.i k = a := by
    by_contra hout
    refine ha ?_
    rw [State.readByte, hmem, exec_params h, read_writeBytes_outside hwf, State.readByte]
    intro j hj hja
    rw [Nat.zero_add] at hja
    exact hout ⟨j, hlen ▸ hj, hja⟩
  exact ⟨storesLow_eq_false.mp hlow k hk, k, hk, rfl⟩

/-- Settles O17: what changes lies in the block stored at I, which is empty for all but the two block stores. -/
theorem memoryChangesOnlyByBlockStores : Obligations.MemoryChangesOnlyByBlockStores := by
  intro i s t hwf h a ha
  obtain ⟨hhigh, k, hk, hka⟩ := exec_readByte hwf h ha
  refine ⟨hhigh, ?_⟩
  cases i with
  | bcd x => exact .inl ⟨x, rfl, k, hk, hka⟩
  | stRegs x => exact .inr ⟨x, rfl, k, Nat.le_of_lt_succ hk, hka⟩
  | _ => exact absurd hk (Nat.not_lt_zero k)

/-! ### ST and the cycle counter are not read -/

/-- ST and the cycle counter replaced. -/
def State.setStCycles (s : State) (b : Byte) (n : Nat) : State := { s with st := b, cycles := n }

/-- An outcome with its next state changed. -/
def mapNext (f : State → State) : Host.Outcome State Fault Refusal → Host.Outcome State Fault Refusal
  | .next s => .next (f s)
  | .fault e => .fault e
  | .refused e => .refused e

section
variable (s : State) (b : Byte) (n : Nat)

@[simp] theorem State.getV_setStCycles (r : Reg) : (s.setStCycles b n).getV r = s.getV r := rfl

@[simp] theorem State.keyAt_setStCycles (k : Fin 16) : (s.setStCycles b n).keyAt k = s.keyAt k := rfl

@[simp] theorem State.lowestKey_setStCycles : (s.setStCycles b n).lowestKey = s.lowestKey := rfl

@[simp] theorem State.pc_setStCycles : (s.setStCycles b n).pc = s.pc := rfl

@[simp] theorem State.setPc_setStCycles (w : Word) : (s.setStCycles b n).setPc w = (s.setPc w).setStCycles b n := rfl

@[simp] theorem State.setI_setStCycles (w : Word) : (s.setStCycles b n).setI w = (s.setI w).setStCycles b n := rfl

@[simp] theorem State.setV_setStCycles (r : Reg) (v : Byte) :
    (s.setStCycles b n).setV r v = (s.setV r v).setStCycles b n := rfl

@[simp] theorem State.skipIf_setStCycles (c : Bool) :
    (s.setStCycles b n).skipIf c = (s.skipIf c).setStCycles b n := by cases c <;> rfl

theorem State.consumeDraw_setStCycles : (s.setStCycles b n).consumeDraw = s.consumeDraw.setStCycles b n := by
  rw [State.consumeDraw_eq, State.consumeDraw_eq]
  rfl

theorem State.loadRegs_setStCycles (rs : List Reg) :
    (s.setStCycles b n).loadRegs rs = (s.loadRegs rs).setStCycles b n := by
  induction rs generalizing s with
  | nil => rfl
  | cons r rs ih => exact ih (s.setV r (s.dataByte r.val))

/-- Replacing ST and the cycle counter commutes with every execute phase but that of `LD ST, Vx`, which overwrites ST. -/
theorem exec_setStCycles {i : Instr} (hi : ∀ x, i ≠ .ldSt x) :
    exec i (s.setStCycles b n) = mapNext (·.setStCycles b n) (exec i s) := by
  cases i with
  | ldSt x => exact absurd rfl (hi x)
  | seImm | sneImm | seReg | sneReg => exact congrArg _ (s.skipIf_setStCycles b n _)
  | ldRegs x => rw [exec_ldRegs, exec_ldRegs, State.loadRegs_setStCycles]; rfl
  | rnd x kk => rw [exec_rnd, exec_rnd, State.consumeDraw_setStCycles]; rfl
  | drw => simp only [exec, execDrw, apply_ite (mapNext _)]; rfl
  | bcd => simp only [exec, execBcd, apply_ite (mapNext _)]; rfl
  | stRegs => simp only [exec, execStRegs, apply_ite (mapNext _)]; rfl
  | skp x => cases hk : hexOperand (s.getV x) <;> simp [exec, execSkp, mapNext, hk]
  | sknp x => cases hk : hexOperand (s.getV x) <;> simp [exec, execSknp, mapNext, hk]
  | ldF x => cases hd : hexOperand (s.getV x) <;> simp [exec, execLdF, mapNext, hd]
  | ldK x => cases hk : s.lowestKey <;> simp [exec, execLdK, mapNext, hk]
  | _ => rfl

end

/-- Only `LD ST, Vx` writes ST, or the cue state. -/
theorem eq_ldSt_of_mem_writtenParts {i : Instr} {p : Part} (hp : p ∈ [.st, .bootCuePending, .cueLatched])
    (h : p ∈ writtenParts i) : ∃ x, i = .ldSt x := by
  cases i with
  | ldSt x => exact ⟨x, rfl⟩
  | _ =>
    simp only [List.mem_cons, List.not_mem_nil, or_false] at hp
    obtain rfl | rfl | rfl := hp <;> simp [writtenParts] at h

theorem exec_keeps_soundRun {p : Part} (hp : p ∈ [.st, .bootCuePending, .cueLatched]) {i : Instr} {s t : State}
    (hi : ∀ x, i ≠ .ldSt x) (h : exec i s = .next t) : p.Same s t := by
  refine exec_frame h p fun hmem => ?_
  have hw : p ∈ writtenParts i := by
    simp only [List.mem_cons, List.not_mem_nil, or_false] at hp
    obtain rfl | rfl | rfl := hp <;> simpa using hmem
  obtain ⟨x, hx⟩ := eq_ldSt_of_mem_writtenParts hp hw
  exact hi x hx

/-- Settles O20: replacing ST and the cycle counter commutes with the execute phase, and `LD ST, Vx` overwrites ST. -/
theorem soundTimerAndCyclesAreNotRead : Obligations.SoundTimerAndCyclesAreNotRead := by
  intro i s b n
  by_cases hi : ∀ x, i ≠ .ldSt x
  · have hb : exec i (s.setSt b) = _ := exec_setStCycles s b s.cycles hi
    have hn : exec i { s with cycles := n } = _ := exec_setStCycles s s.st n hi
    refine ⟨fun t h => ⟨fun _ => ?_, fun ⟨x, hx⟩ => absurd hx (hi x), ?_⟩, fun e h => ?_⟩
    · have hcycles : t.cycles = s.cycles := exec_keeps (p := .cycles) (by decide) h
      rw [hb, h, ← hcycles]
      rfl
    · have hst : t.st = s.st := exec_keeps_soundRun (p := .st) (by decide) hi h
      rw [hn, h, ← hst]
      rfl
    · rw [hb, hn, h]
      exact ⟨rfl, rfl⟩
  · push Not at hi
    obtain ⟨x, rfl⟩ := hi
    refine ⟨fun t h => ⟨fun hne => absurd rfl (hne x), fun _ => ?_, ?_⟩, fun e h => ?_⟩
    · exact h
    · cases h; rfl
    · cases h

end Sys2Proof.Machine
end

section
/-! SUPPORT. The step (40_cycle.md): what it does with a decoded instruction, with each fault, and with a faulted core; which
steps count a cycle and which suspend; and that no step writes a key. -/

namespace Sys2Proof.Machine

/-! ### The step of each kind of core -/

theorem stepResult_faulted {s : State} (hf : s.faulted = true) : s.stepResult = .next ⟨.fault s.faultCause, s⟩ :=
  if_pos hf

theorem stepResult_outOfBounds {s : State} (hf : s.faulted = false) (hb : s.fetchOutOfBounds = true) :
    s.stepResult = .next ⟨.fault (some .outOfBounds), s.takeFault .outOfBounds⟩ := by
  simp [State.stepResult, hf, hb]

theorem stepResult_undecodable {s : State} {e : DecodeError} (hf : s.faulted = false)
    (hb : s.fetchOutOfBounds = false) (hd : decode s.fetchWord = .error e) :
    s.stepResult = .next ⟨.fault (some .undecodableOpcode), s.advancePc.takeFault .undecodableOpcode⟩ := by
  simp [State.stepResult, hf, hb, hd]

/-- The step of a core that fetches `i`, after its execute phase completed or awaited. -/
theorem stepResult_of_exec {s t : State} {i : Instr} (hf : s.faulted = false) (hb : s.fetchOutOfBounds = false)
    (hd : decode s.fetchWord = .ok i) (h : exec i s.advancePc = .next t) :
    s.stepResult = .next (finishStep (awaits i s.advancePc) t) := by
  rw [stepResult_decoded hf hb hd, executeDecoded, h]

theorem step_of_stepResult {s : State} {r : StepResult} (h : s.stepResult = .next r) : step s = .next r.state := by
  rw [step, h, stateOf_next]

/-- Settles O8: the decoded instruction's execute phase runs on the state with PC advanced, and its end counts a cycle
unless the instruction is the key wait with no key pressed. -/
theorem stepRunsTheDecodedInstruction : Obligations.StepRunsTheDecodedInstruction := by
  intro s i hf hpc hd
  have hb := State.fetchOutOfBounds_eq_false.mpr hpc
  have hstep := stepResult_decoded hf hb hd
  refine ⟨fun t h => ⟨fun hw => ?_, fun hw => ?_⟩, fun e h => ?_, fun e h => ?_⟩
  · have hr := stepResult_of_exec hf hb hd h
    rw [(awaits_iff (s := s.advancePc)).mpr hw, finishStep_true] at hr
    exact ⟨hr, step_of_stepResult hr⟩
  · have hr := stepResult_of_exec hf hb hd h
    rw [Bool.eq_false_iff.mpr (mt (awaits_iff (s := s.advancePc)).mp hw), finishStep_false] at hr
    exact ⟨hr, step_of_stepResult hr⟩
  · rw [step, hstep, executeDecoded, State.advancePc_eq, h]
    rfl
  · exact absurd h (exec_ne_refused i _ e)

/-- Settles O11: the failed bounds check takes the fault on the state as it was. -/
theorem fetchPastMemoryTakesOutOfBounds : Obligations.FetchPastMemoryTakesOutOfBounds := by
  intro s hf hpc
  have hr := stepResult_outOfBounds hf (State.fetchOutOfBounds_eq_true.mpr hpc)
  exact ⟨_, hr, step_of_stepResult hr, rfl, rfl, sameBut_takeFault s _⟩

theorem decode_eq_error_of_no_row {op : Word} (h : ∀ row ∈ opcodeRows, row.accepts op = false) :
    ∃ e, decode op = .error e := by
  cases hd : decode op with
  | error e => exact ⟨e, rfl⟩
  | ok i =>
    obtain ⟨row, hrow, haccepts, _⟩ := exists_row_of_decode hd
    exact absurd haccepts (by simp [h row hrow])

/-- Settles O12: an opcode of no row does not decode, and the fault is taken with PC advanced. -/
theorem unknownOpcodeTakesUndecodableOpcode : Obligations.UnknownOpcodeTakesUndecodableOpcode := by
  intro s hf hpc hrows
  obtain ⟨e, hd⟩ := decode_eq_error_of_no_row hrows
  have hr := stepResult_undecodable hf (State.fetchOutOfBounds_eq_false.mpr hpc) hd
  refine ⟨_, hr, step_of_stepResult hr, rfl, rfl, BitVec.toNat_add s.pc 2, ?_⟩
  exact ((sameBut_setPc s _).append (sameBut_takeFault _ _)).mono (by simp)

/-! ### Cycles and suspension -/

/-- Settles O13: only the end of a completed execute phase writes the counter. -/
theorem cyclesCountCompletedSteps : Obligations.CyclesCountCompletedSteps := by
  intro s r h
  obtain ⟨_, rfl⟩ | ⟨_, _, rfl⟩ | ⟨_, _, _, rfl⟩ | ⟨i, t, _, _, _, hx, rfl⟩ := stepResult_cases h
  · exact ⟨nofun, fun _ => rfl⟩
  · exact ⟨nofun, fun _ => rfl⟩
  · exact ⟨nofun, fun _ => rfl⟩
  · have hcycles : t.cycles = s.cycles := exec_keeps (p := .cycles) (s := s.advancePc) (by decide) hx
    cases awaits i s.advancePc with
    | true => exact ⟨nofun, fun _ => hcycles⟩
    | false => exact ⟨fun _ => congrArg (· + 1) hcycles, fun hne => absurd rfl hne⟩

theorem State.restorePc_advancePc (s : State) : s.advancePc.restorePc = s := by
  rw [State.restorePc_eq, State.advancePc_eq, State.setPc_pc, BitVec.add_sub_cancel]
  rfl

/-- Settles O14: an awaiting step ran the key wait with no key pressed, which puts back the PC that the fetch advanced. -/
theorem onlyTheKeyWaitSuspends : Obligations.OnlyTheKeyWaitSuspends := by
  intro s r h hr
  obtain ⟨_, rfl⟩ | ⟨_, _, rfl⟩ | ⟨_, _, _, rfl⟩ | ⟨i, t, _, _, hd, hx, rfl⟩ := stepResult_cases h
  · cases hr
  · cases hr
  · cases hr
  · cases hw : awaits i s.advancePc with
    | false => rw [hw] at hr; cases hr
    | true =>
      obtain ⟨⟨x, rfl⟩, hkeys⟩ := awaits_iff.mp hw
      refine ⟨⟨x, hd⟩, hkeys, ?_⟩
      have hnone := State.lowestKey_eq_none.mpr hkeys
      obtain ⟨k, hk, _⟩ | ⟨_, rfl⟩ := exec_ldK_eq_next.mp hx
      · rw [hnone] at hk; cases hk
      · exact s.restorePc_advancePc

/-! ### Keys -/

/-- A step keeps what the execute phase keeps, if the PC advance, the taking of a fault and the count of a cycle keep it. -/
theorem stepResult_keeps {P : State → Prop} {s : State} {r : StepResult} (hs : P s)
    (hadvance : s.fetchOutOfBounds = false → P s.advancePc) (hfault : ∀ u c, P u → P (u.takeFault c))
    (hcount : ∀ u, P u → P u.countCycle)
    (hexec : ∀ i t, s.faulted = false → s.fetchOutOfBounds = false → decode s.fetchWord = .ok i →
      exec i s.advancePc = .next t → P t)
    (h : s.stepResult = .next r) : P r.state := by
  obtain ⟨_, rfl⟩ | ⟨_, _, rfl⟩ | ⟨_, hb, _, rfl⟩ | ⟨i, t, hf, hb, hd, hx, rfl⟩ := stepResult_cases h
  · exact hs
  · exact hfault s _ hs
  · exact hfault _ _ (hadvance hb)
  · have ht : P t := hexec i t hf hb hd hx
    cases awaits i s.advancePc with
    | true => exact ht
    | false => exact hcount t ht

theorem stepResult_key {s : State} {r : StepResult} (h : s.stepResult = .next r) (k : Fin 16) :
    r.state.keyAt k = s.keyAt k :=
  stepResult_keeps (P := fun u => u.keyAt k = s.keyAt k) rfl (fun _ => rfl) (fun _ _ hu => hu) (fun _ hu => hu)
    (fun _ _ _ _ _ hx => exec_keeps (p := .key) (s := s.advancePc) (by decide) hx k) h

theorem sameBut_setKeys (s : State) (ks : Keys) : SameBut [.key] s (s.setKeys ks) := by
  intro p hp
  cases p <;> simp_all [Part.Same, State.readByte, State.getV, State.stackAt]

/-- Settles O15: no execute phase and no fault writes a key, and the two host calls write all sixteen. -/
theorem onlyTheHostWritesKeys : Obligations.OnlyTheHostWritesKeys := by
  refine ⟨fun s t h k => ?_, fun s ks => ⟨_, rfl, fun _ => rfl, sameBut_setKeys s ks⟩, fun s => ⟨_, rfl, fun k => ?_⟩⟩
  · obtain ⟨r, hr, rfl⟩ := step_eq_next.mp h
    exact stepResult_key hr k
  · simp [State.keyAt, State.resetOp, State.resetWith]

/-! ### A faulted core -/

theorem hostCall_step_faulted {s : State} (hf : s.faulted = true) (rnd : Byte) :
    hostCall (.step rnd) s = .next (.status (.fault s.faultCause), s) := by
  have hr : ({ s with draws := [rnd] } : State).stepResult = _ := stepResult_faulted hf
  rw [hostCall, State.stepWith, hr]

theorem hostCall_tick_faulted {s : State} (hf : s.faulted = true) :
    hostCall .tickTimers s = .next (.cue .none, s) := by
  simp [hostCall, State.tickTimers, hf]

/-- Settles O10: each step and each tick of a faulted core answers the state it was made in. -/
theorem faultedCoreIsFrozen : Obligations.FaultedCoreIsFrozen := by
  intro s ops hf hops
  refine ⟨step_of_stepResult (stepResult_faulted hf), ?_⟩
  induction ops with
  | nil => rfl
  | cons op ops ih =>
    have hrest := ih fun o ho => hops o (List.mem_cons_of_mem op ho)
    refine hostRun_cons_eq_next.mpr ⟨_, s, _, ?_, hrest, rfl⟩
    obtain ⟨rnd, rfl⟩ | rfl := hops op List.mem_cons_self
    · exact hostCall_step_faulted hf rnd
    · exact hostCall_tick_faulted hf

end Sys2Proof.Machine
end

section
/-! SUPPORT. Memory as data (20_memory.md B6): canonical memories that read alike are the same list. -/

namespace Sys2Proof.Machine

variable {font : Font}

theorem lookupByte_cons_self (k : Nat) (v : Byte) (m : Memory) : lookupByte font ((k, v) :: m) k = v := if_pos rfl

theorem lookupByte_cons_of_ne {a k : Nat} (h : a ≠ k) (v : Byte) (m : Memory) :
    lookupByte font ((k, v) :: m) a = lookupByte font m a := if_neg h

/-- Below its first cell a canonical memory reads as the reset contents. -/
theorem lookupByte_cons_below {lo a k : Nat} {v : Byte} {m : Memory} (h : canonicalFrom font lo ((k, v) :: m) = true)
    (ha : a < k) : lookupByte font ((k, v) :: m) a = resetByte font a := by
  obtain ⟨_, _, _, hm⟩ := canonicalFrom_cons.mp h
  rw [lookupByte_cons_of_ne ha.ne, lookupByte_below hm (Nat.lt_succ_of_lt ha)]

/-- A memory that reads at the first cell of a canonical one as this does starts no higher than this. -/
theorem exists_head_le {lo lo' k : Nat} {v : Byte} {m m' : Memory} (h : canonicalFrom font lo ((k, v) :: m) = true)
    (h' : canonicalFrom font lo' m' = true) (heq : lookupByte font m' k = v) :
    ∃ k' v' m'', m' = (k', v') :: m'' ∧ k' ≤ k := by
  obtain ⟨_, _, hv, _⟩ := canonicalFrom_cons.mp h
  cases m' with
  | nil => exact absurd heq.symm hv
  | cons kv m'' =>
    refine ⟨kv.1, kv.2, m'', rfl, Nat.le_of_not_lt fun hlt => hv ?_⟩
    rw [← heq, lookupByte_cons_below h' hlt]

theorem canonicalFrom_ext {lo lo' : Nat} {m m' : Memory} (h : canonicalFrom font lo m = true)
    (h' : canonicalFrom font lo' m' = true) (heq : ∀ a < 4096, lookupByte font m a = lookupByte font m' a) : m = m' := by
  induction m generalizing lo lo' m' with
  | nil =>
    cases m' with
    | nil => rfl
    | cons kv m' =>
      obtain ⟨_, hk, _, _⟩ := canonicalFrom_cons.mp h'
      obtain ⟨_, _, _, hnil, _⟩ := exists_head_le h' h ((heq _ hk).trans (lookupByte_cons_self _ _ _))
      cases hnil
  | cons kv m ih =>
    obtain ⟨k, v⟩ := kv
    obtain ⟨_, hk, _, hm⟩ := canonicalFrom_cons.mp h
    obtain ⟨k', v', m'', rfl, hle⟩ := exists_head_le h h' ((heq k hk).symm.trans (lookupByte_cons_self _ _ _))
    obtain ⟨_, hk', _, hm'⟩ := canonicalFrom_cons.mp h'
    obtain ⟨_, _, _, hcons, hle'⟩ := exists_head_le h' h ((heq k' hk').trans (lookupByte_cons_self _ _ _))
    cases hcons
    obtain rfl : k = k' := Nat.le_antisymm hle' hle
    have hv := heq k hk
    rw [lookupByte_cons_self, lookupByte_cons_self] at hv
    have htail : m = m'' := ih hm hm' fun a ha => by
      by_cases hak : a ≤ k
      · rw [lookupByte_below hm (Nat.lt_succ_of_le hak), lookupByte_below hm' (Nat.lt_succ_of_le hak)]
      · have := heq a ha
        rwa [lookupByte_cons_of_ne (by omega), lookupByte_cons_of_ne (by omega)] at this
    rw [hv, htail]

/-- Settles O25: the first cells of two such memories stand at one address with one value, and so on down the lists. -/
theorem canonicalMemoriesReadingAlikeAreEqual : Obligations.CanonicalMemoriesReadingAlikeAreEqual := by
  intro font m m' h h' heq
  refine canonicalFrom_ext h h' fun a ha => ?_
  have hread := heq (BitVec.ofNat 12 a)
  rwa [Memory.read, Memory.read, BitVec.toNat_ofNat, Nat.mod_eq_of_lt ha] at hread

end Sys2Proof.Machine
end

section
/-! SUPPORT. The loader, the reset operation and the placed instruction (70_reset_and_hazards.md R122, R123): what each
leaves in memory and in the other parts. -/

namespace Sys2Proof.Machine

/-! ### `load_program` -/

theorem loadProgram_empty {p : List Byte} (hp : p.length = 0) (s : State) : s.loadProgram p = (.emptyProgram, s) :=
  if_pos hp

theorem loadProgram_tooLarge {p : List Byte} (hp : 3584 < p.length) (s : State) :
    s.loadProgram p = (.programTooLarge, s) := by
  rw [State.loadProgram, if_neg (by omega), if_pos (show progMax < p.length from hp)]

theorem loadProgram_ok {p : List Byte} (hpos : 0 < p.length) (hp : p.length ≤ 3584) (s : State) :
    s.loadProgram p = (.ok, s.copyProgram p) := by
  rw [State.loadProgram, if_neg (by omega), if_neg (by rw [progMax]; omega)]

/-- A load leaves the state as it is, or copies a program that fits. -/
theorem loadProgram_state (s : State) (p : List Byte) :
    (s.loadProgram p).2 = s ∨ p.length ≤ 3584 ∧ (s.loadProgram p).2 = s.copyProgram p := by
  rcases Nat.eq_zero_or_pos p.length with hempty | hpos
  · exact .inl (by rw [loadProgram_empty hempty])
  · rcases Nat.lt_or_ge 3584 p.length with hlarge | hfits
    · exact .inl (by rw [loadProgram_tooLarge hlarge])
    · exact .inr ⟨hfits, by rw [loadProgram_ok hpos hfits]⟩

theorem ea_progBase_toNat {k : Nat} (hk : k < 3584) : (ea progBase k).toNat = 0x200 + k :=
  Nat.mod_eq_of_lt (by omega : 0x200 + k < 4096)

theorem sameBut_copyProgram (s : State) (p : List Byte) : SameBut [.mem] s (s.copyProgram p) := by
  intro q hq
  cases q <;> simp_all [Part.Same, State.getV, State.stackAt, State.keyAt]

section
variable {s : State} {p : List Byte} (hwf : s.mem.wf s.params.font = true) (hp : p.length ≤ 3584)
include hwf hp

theorem readByte_copyProgram_inside {k : Nat} (hk : k < p.length) :
    (s.copyProgram p).readByte (BitVec.ofNat 12 (0x200 + k)) = p[k] := by
  have haddr : (BitVec.ofNat 12 (0x200 + k) : Addr) = ea progBase (0 + k) := by
    rw [Nat.zero_add]; rfl
  rw [haddr]
  exact read_writeBytes_inside hwf progBase 0 p k hk (by omega)

theorem readByte_copyProgram_outside {a : Addr} (ha : a.toNat < 0x200 ∨ 0x200 + p.length ≤ a.toNat) :
    (s.copyProgram p).readByte a = s.readByte a := by
  refine read_writeBytes_outside hwf progBase 0 p a fun k hk hka => ?_
  have hval := ea_progBase_toNat (show 0 + k < 3584 by omega)
  rw [hka] at hval
  omega

end

/-- Settles O57: a load that fits is one block store at `0x200`, which does not wrap. -/
theorem loadProgramCopiesVerbatim : Obligations.LoadProgramCopiesVerbatim := by
  intro p s hwf
  refine ⟨fun hempty => ?_, fun hlarge => ?_, fun hpos hfits => ⟨s.copyProgram p, ?_, fun k hk => ?_, fun a ha => ?_,
    sameBut_copyProgram s p⟩⟩
  · rw [hostCall, loadProgram_empty hempty]
  · rw [hostCall, loadProgram_tooLarge hlarge]
  · rw [hostCall, loadProgram_ok hpos hfits]
  · rw [readByte_copyProgram_inside hwf hfits hk, List.getElem?_eq_getElem hk]
  · exact readByte_copyProgram_outside hwf hfits ha

/-! ### `reset` -/

theorem resetOp_readByte (s : State) (a : Addr) : s.resetOp.readByte a = resetByte s.params.font a.toNat := rfl

/-- Settles O58: every field is one of the named reset values. -/
theorem resetGivesTheResetValues : Obligations.ResetGivesTheResetValues := by
  intro s
  refine ⟨s.resetOp, rfl, rfl, rfl, rfl, resetOp_readByte s, fun r => ?_, rfl, rfl, rfl, fun j => ?_, rfl, rfl,
    pixelAt_blankDisplay, fun k => ?_, rfl, rfl, rfl, decide_eq_true_iff, rfl, rfl⟩
  · simp [State.getV, State.resetOp, State.resetWith, resetV]
  · simp [State.stackAt, State.resetOp, State.resetWith, resetStackEntry]
  · simp [State.keyAt, State.resetOp, State.resetWith]

/-! ### `withFetchWord` -/

theorem readyToFetch_pc_toNat (s : State) : s.readyToFetch.pc.toNat ≤ 0xFFE := by
  cases hb : s.fetchOutOfBounds with
  | true => simp [State.readyToFetch, hb, progBase]
  | false => simpa [State.readyToFetch, hb] using State.fetchOutOfBounds_eq_false.mp hb

/-- The two bytes of an opcode stand at different addresses. -/
theorem fetch_addresses_ne (pc : Word) : (pc.setWidth 12 : Addr) ≠ (pc + 1).setWidth 12 := by
  rw [setWidth_succ, Ne, ← BitVec.toNat_inj, BitVec.toNat_setWidth, BitVec.toNat_ofNat]
  omega

theorem fetchWord_placeWord {s : State} (hwf : s.mem.wf s.params.font = true) (op : Word) :
    (s.placeWord op).fetchWord = op := by
  have hwf' := Memory.wf_write s.mem (s.pc.setWidth 12) (highByte op) hwf
  have hhigh : (s.placeWord op).readByte (s.pc.setWidth 12) = highByte op := by
    rw [State.readByte, State.placeWord, Memory.read_write _ _ _ _ hwf', if_neg (fetch_addresses_ne s.pc),
      Memory.read_write _ _ _ _ hwf, if_pos rfl]
  have hlow : (s.placeWord op).readByte ((s.pc + 1).setWidth 12) = lowByte op := by
    rw [State.readByte, State.placeWord, Memory.read_write _ _ _ _ hwf', if_pos rfl]
  calc (s.placeWord op).fetchWord = wordOfBytes (highByte op) (lowByte op) := congrArg₂ wordOfBytes hhigh hlow
    _ = op := wordOfBytes_high_low op

theorem decode_of_decodeTableWord {n w : Nat} {i : Instr} (h : decodeTableWord n w = some i) :
    decode (tableWord n w) = .ok i := by
  cases hd : decode (tableWord n w) <;> simp_all [decodeTableWord, decodeBytes]

/-- Settles O59: the state that is ready to fetch is not faulted and in range, and reads back the word placed at PC. -/
theorem placedWordRunsNext : Obligations.PlacedWordRunsNext := by
  intro s w i hwf _ hd
  have hb : (s.withFetchWord 16 w).fetchOutOfBounds = false :=
    State.fetchOutOfBounds_eq_false.mpr (readyToFetch_pc_toNat s)
  have hword : (s.withFetchWord 16 w).fetchWord = tableWord 16 w := fetchWord_placeWord (s := s.readyToFetch) hwf _
  have hdecode : decode (s.withFetchWord 16 w).fetchWord = .ok i := by rw [hword, decode_of_decodeTableWord hd]
  rw [step, stepResult_decoded rfl hb hdecode]

end Sys2Proof.Machine
end

section
/-! SUPPORT. The invariant of the core (`State.Inv`) through the execute phase and the step: what an execute phase can put
into PC, into the stack and into the cue state. -/

namespace Sys2Proof.Machine

/-! ### What an execute phase can put into PC, the stack and the cue state -/

theorem State.skipIf_pc (s : State) (c : Bool) : (s.skipIf c).pc = s.pc ∨ (s.skipIf c).pc = s.pc + 2 := by
  cases c
  · exact .inl rfl
  · exact .inr rfl

/-- PC stays, skips, goes back, returns to a stack entry, or takes NNN plus a byte. -/
theorem exec_pc {i : Instr} {s t : State} (h : exec i s = .next t) :
    (t.pc = s.pc ∨ t.pc = s.pc + 2) ∨ t.pc = s.pc - 2 ∨ (∃ j, t.pc = s.stackAt j) ∨
      ∃ (nnn : Addr) (b : Byte), t.pc = zextAddr nnn + b.setWidth 16 := by
  by_cases hw : Part.pc ∈ writtenParts i
  case neg => exact .inl (.inl (exec_frame h .pc (by simpa using hw)))
  cases i with
  | ret => cases h; exact .inr (.inr (.inl ⟨_, rfl⟩))
  | jp nnn => cases h; exact .inr (.inr (.inr ⟨nnn, 0, (BitVec.add_zero _).symm⟩))
  | call nnn => cases h; exact .inr (.inr (.inr ⟨nnn, 0, (BitVec.add_zero _).symm⟩))
  | jpV0 nnn => cases h; exact .inr (.inr (.inr ⟨nnn, s.getV 0, rfl⟩))
  | seImm | sneImm | seReg | sneReg => cases h; exact .inl (s.skipIf_pc _)
  | skp => obtain ⟨k, _, rfl⟩ := exec_skp_eq_next.mp h; exact .inl (s.skipIf_pc _)
  | sknp => obtain ⟨k, _, rfl⟩ := exec_sknp_eq_next.mp h; exact .inl (s.skipIf_pc _)
  | ldK =>
    obtain ⟨k, _, rfl⟩ | ⟨_, rfl⟩ := exec_ldK_eq_next.mp h
    · exact .inl (.inl rfl)
    · exact .inr (.inl rfl)
  | _ => simp [writtenParts] at hw

/-- An entry of the stack stays, or takes the post-fetch PC. -/
theorem exec_stackAt {i : Instr} {s t : State} (h : exec i s = .next t) (j : Nibble) :
    t.stackAt j = s.stackAt j ∨ t.stackAt j = s.pc := by
  by_cases hw : Part.stack ∈ writtenParts i
  case neg => exact .inl (exec_frame h .stack (by simpa using hw) j)
  cases i with
  | call nnn =>
    cases h
    rw [State.stackAt_setPc, State.stackAt_push]
    split
    · exact .inr rfl
    · exact .inl rfl
  | _ => simp [writtenParts] at hw

/-- ST and the two cue bits stay, or are those of a write of ST. -/
theorem exec_soundRun {i : Instr} {s t : State} (h : exec i s = .next t) :
    (t.st = s.st ∧ t.bootCuePending = s.bootCuePending ∧ t.cueLatched = s.cueLatched) ∨
    (t.bootCuePending = false ∧ t.cueLatched = (s.cueLatched && decide (t.st ≠ 0))) := by
  by_cases hi : ∀ x, i ≠ .ldSt x
  · exact .inl ⟨exec_keeps_soundRun (p := .st) (by decide) hi h,
      exec_keeps_soundRun (p := .bootCuePending) (by decide) hi h,
      exec_keeps_soundRun (p := .cueLatched) (by decide) hi h⟩
  · push Not at hi
    obtain ⟨x, rfl⟩ := hi
    cases h
    exact .inr ⟨rfl, rfl⟩

/-! ### The invariant -/

theorem toNat_add_two (pc : Word) : (pc + 2).toNat = (pc.toNat + 2) % 65536 := BitVec.toNat_add pc 2

theorem toNat_sub_two (pc : Word) : (pc - 2).toNat = (pc.toNat + 65534) % 65536 :=
  (BitVec.toNat_sub pc 2).trans (by rw [Nat.add_comm]; rfl)

theorem exec_pcBound {i : Instr} {s t : State} (hlo : 2 ≤ s.pc.toNat) (hhi : s.pc.toNat ≤ 0x1000)
    (hstack : ∀ j, (s.stackAt j).toNat ≤ 0x1000) (h : exec i s = .next t) : t.pc.toNat ≤ 0x10FE := by
  obtain (hpc | hpc) | hpc | ⟨j, hpc⟩ | ⟨nnn, b, hpc⟩ := exec_pc h
  · rw [hpc]
    omega
  · rw [hpc, toNat_add_two]
    omega
  · rw [hpc, toNat_sub_two]
    omega
  · rw [hpc]
    have := hstack j
    omega
  · have hn := nnn.isLt
    have hb := b.isLt
    rw [hpc, BitVec.toNat_add, zextAddr_toNat, BitVec.toNat_setWidth]
    omega

/-- An execute phase keeps the invariant; it starts with PC advanced from at most `0xFFE`. -/
theorem exec_inv {i : Instr} {s t : State} (hs : s.Inv) (hlo : 2 ≤ s.pc.toNat) (hhi : s.pc.toNat ≤ 0x1000)
    (h : exec i s = .next t) : t.Inv where
  memCanonical := exec_mem_wf hs.memCanonical h
  causeRecorded := by
    have hf : t.faulted = s.faulted := exec_keeps (p := .faulted) (by decide) h
    have hc : t.faultCause = s.faultCause := exec_keeps (p := .faultCause) (by decide) h
    rw [hf, hc, hs.causeRecorded]
  pcBound := exec_pcBound hlo hhi hs.stackBound h
  stackBound j := by
    obtain hj | hj := exec_stackAt h j
    · rw [hj]; exact hs.stackBound j
    · rw [hj]; exact hhi
  latchedCounts hl := by
    obtain ⟨hst, _, hlatch⟩ | ⟨_, hlatch⟩ := exec_soundRun h
    · rw [hst]; exact hs.latchedCounts (hlatch ▸ hl)
    · rw [hlatch, Bool.and_eq_true, decide_eq_true_iff] at hl
      exact hl.2
  bootUntouched hb := by
    obtain ⟨hst, hboot, hlatch⟩ | ⟨hboot, _⟩ := exec_soundRun h
    · rw [hst, hlatch, exec_params h]; exact hs.bootUntouched (hboot ▸ hb)
    · rw [hboot] at hb; cases hb

theorem State.Inv.setPc {s : State} (hs : s.Inv) {w : Word} (hw : w.toNat ≤ 0x10FE) : (s.setPc w).Inv :=
  { hs with pcBound := hw }

theorem State.Inv.takeFault {s : State} (hs : s.Inv) (c : FaultCause) : (s.takeFault c).Inv :=
  { hs with causeRecorded := rfl }

theorem State.Inv.countCycle {s : State} (hs : s.Inv) : s.countCycle.Inv := { hs with }

theorem State.Inv.withDraws {s : State} (hs : s.Inv) (ds : List Byte) : ({ s with draws := ds } : State).Inv :=
  { hs with }

theorem advancePc_pc_bounds {s : State} (hb : s.fetchOutOfBounds = false) :
    2 ≤ s.advancePc.pc.toNat ∧ s.advancePc.pc.toNat ≤ 0x1000 := by
  have hpc := State.fetchOutOfBounds_eq_false.mp hb
  rw [State.advancePc_eq, State.setPc_pc, toNat_add_two]
  omega

theorem stepResult_inv {s : State} {r : StepResult} (hs : s.Inv) (h : s.stepResult = .next r) : r.state.Inv := by
  have hadvance (hb : s.fetchOutOfBounds = false) : s.advancePc.Inv :=
    hs.setPc (Nat.le_trans (advancePc_pc_bounds hb).2 (by decide))
  refine stepResult_keeps hs hadvance (fun _ c hu => hu.takeFault c) (fun _ hu => hu.countCycle)
    (fun i t _ hb _ hx => ?_) h
  obtain ⟨hlo, hhi⟩ := advancePc_pc_bounds hb
  exact exec_inv (hadvance hb) hlo hhi hx

/-- Settles O21: a fault only adds the flag and its cause, and the execute phase starts with PC at most `0x1000`. -/
theorem stepKeepsTheInvariant : Obligations.StepKeepsTheInvariant := by
  intro s t hs h
  obtain ⟨r, hr, rfl⟩ := step_eq_next.mp h
  exact stepResult_inv hs hr

/-! ### Reset -/

theorem resetWith_inv (p : Params) : (State.resetWith p).Inv where
  memCanonical := rfl
  causeRecorded := rfl
  pcBound := show progBase.toNat ≤ 0x10FE by decide
  stackBound j := by simp [State.stackAt, State.resetWith, resetStackEntry]
  latchedCounts hl := by cases hl
  bootUntouched hb := by
    have hpos : 0 < p.stReset.toNat := decide_eq_true_iff.mp hb
    exact ⟨rfl, fun h0 => by rw [show p.stReset = 0 from h0] at hpos; exact absurd hpos (by decide), rfl⟩

/-- Settles O22: the boot cue is pending after reset only if ST_RESET is not 0. -/
theorem resetMeetsTheInvariant : Obligations.ResetMeetsTheInvariant := ⟨resetWith_inv _, resetWith_inv⟩

end Sys2Proof.Machine
end

section
/-! SUPPORT. Sequences of host calls (60_exceptions.md R116 to R118): what every call keeps, every sequence keeps; the
invariant, the memory below `0x200`, the tick's rule, and the tone cues of a run. -/

namespace Sys2Proof.Machine

/-- What every host call keeps, every sequence of calls keeps. -/
theorem hostRun_keeps {P : State → Prop}
    (hcall : ∀ {op : HostOp} {s t : State} {r : HostResult}, P s → hostCall op s = .next (r, t) → P t)
    {ops : List HostOp} {s t : State} {rs : List HostResult} (hs : P s) (h : hostRun ops s = .next (rs, t)) : P t := by
  induction ops generalizing s rs with
  | nil => cases h; exact hs
  | cons op ops ih =>
    obtain ⟨_, _, _, hop, hrest, _⟩ := hostRun_cons_eq_next.mp h
    exact ih (hcall hs hop) hrest

theorem hostCall_step_cases {s t : State} {rnd : Byte} {r : HostResult} (h : hostCall (.step rnd) s = .next (r, t)) :
    ∃ q, ({ s with draws := [rnd] } : State).stepResult = .next q ∧ r = .status q.status ∧
      t = { q.state with draws := s.draws } := by
  obtain ⟨_, hq, rfl, rfl⟩ := hostCall_step_eq_next.mp h
  obtain ⟨q, hr, rfl⟩ := State.stepWith_eq_next.mp hq
  exact ⟨q, hr, rfl, rfl⟩

theorem tickTimers_state (s : State) : s.tickTimers.2 = s ∨ s.tickTimers.2 = s.tickRunning := by
  unfold State.tickTimers
  split
  · exact .inl rfl
  · exact .inr rfl

/-! ### The invariant -/

theorem resetOp_inv (s : State) : s.resetOp.Inv := { resetWith_inv s.params with }

theorem copyProgram_inv {s : State} (hs : s.Inv) (p : List Byte) : (s.copyProgram p).Inv :=
  { hs with memCanonical := wf_writeBytes hs.memCanonical progBase 0 p }

theorem tickCue_eq_fatal_iff {s : State} : s.tickCue = .fatal ↔ s.st ≠ 0 ∧ s.bootCuePending = true := by
  unfold State.tickCue Machine.tickCue
  split_ifs with hst hboot
  · exact ⟨nofun, fun h => absurd hst h.1⟩
  · exact ⟨fun _ => ⟨hst, hboot⟩, fun _ => rfl⟩
  · exact ⟨nofun, fun h => absurd h.2 hboot⟩
  · exact ⟨nofun, fun h => absurd h.2 hboot⟩

/-- A pending boot cue fires on the next decrement, so that no boot cue is pending after a tick. -/
theorem tickRunning_inv {s : State} (hs : s.Inv) : s.tickRunning.Inv where
  memCanonical := hs.memCanonical
  causeRecorded := hs.causeRecorded
  pcBound := hs.pcBound
  stackBound := hs.stackBound
  latchedCounts hl := by
    rw [State.tickRunning_cueLatched, Bool.and_eq_true, decide_eq_true_iff] at hl
    exact hl.2
  bootUntouched hb := by
    rw [State.tickRunning_bootCuePending, Bool.and_eq_true, decide_eq_true_iff] at hb
    obtain ⟨hboot, hcue⟩ := hb
    obtain ⟨_, hst, _⟩ := hs.bootUntouched hboot
    exact absurd (tickCue_eq_fatal_iff.mpr ⟨hst, hboot⟩) hcue

theorem hostCall_inv {op : HostOp} {s t : State} {r : HostResult} (hs : s.Inv)
    (h : hostCall op s = .next (r, t)) : t.Inv := by
  cases op with
  | reset => cases h; exact resetOp_inv s
  | loadProgram p =>
    cases h
    obtain hsame | ⟨_, hcopy⟩ := loadProgram_state s p
    · rw [hsame]; exact hs
    · rw [hcopy]; exact copyProgram_inv hs p
  | setKeys ks => cases h; exact { hs with }
  | step rnd =>
    obtain ⟨q, hq, _, rfl⟩ := hostCall_step_cases h
    exact (stepResult_inv (hs.withDraws [rnd]) hq).withDraws s.draws
  | tickTimers =>
    cases h
    obtain hsame | htick := tickTimers_state s
    · rw [hsame]; exact hs
    · rw [htick]; exact tickRunning_inv hs
  | display | isFaulted | cycleCount => cases h; exact hs

/-- Settles O23: every host call keeps the invariant. -/
theorem hostRunsKeepTheInvariant : Obligations.HostRunsKeepTheInvariant := fun _ _ _ _ hs h =>
  hostRun_keeps hostCall_inv hs h

/-! ### Memory below `0x200` -/

/-- Memory is canonical over `font`, and below `0x200` it reads as the reset contents. -/
structure State.LowMemoryIsReset (font : Font) (s : State) : Prop where
  font_eq : s.params.font = font
  canonical : s.mem.wf s.params.font = true
  low : ∀ a : Addr, a.toNat < 0x200 → s.readByte a = resetByte font a.toNat

section
variable {font : Font}

theorem exec_lowMemory {i : Instr} {s t : State} (hs : s.LowMemoryIsReset font) (h : exec i s = .next t) :
    t.LowMemoryIsReset font where
  font_eq := by rw [exec_params h, hs.font_eq]
  canonical := exec_mem_wf hs.canonical h
  low a ha := by
    have hsame : t.readByte a = s.readByte a := by
      by_contra hne
      exact absurd (exec_readByte hs.canonical h hne).1 (Nat.not_le_of_lt ha)
    rw [hsame, hs.low a ha]

/-- The condition speaks of memory and the font only. -/
theorem State.LowMemoryIsReset.congr {s t : State} (hs : s.LowMemoryIsReset font) (hmem : t.mem = s.mem)
    (hparams : t.params = s.params) : t.LowMemoryIsReset font where
  font_eq := by rw [hparams, hs.font_eq]
  canonical := by rw [hparams, hmem, hs.canonical]
  low a ha := by rw [State.readByte, hparams, hmem, ← State.readByte, hs.low a ha]

theorem stepResult_lowMemory {s : State} {r : StepResult} (hs : s.LowMemoryIsReset font)
    (h : s.stepResult = .next r) : r.state.LowMemoryIsReset font :=
  stepResult_keeps hs (fun _ => hs.congr rfl rfl) (fun _ _ hu => hu.congr rfl rfl) (fun _ hu => hu.congr rfl rfl)
    (fun _ _ _ _ _ hx => exec_lowMemory (s := s.advancePc) (hs.congr rfl rfl) hx) h

theorem copyProgram_lowMemory {s : State} (hs : s.LowMemoryIsReset font) {p : List Byte} (hp : p.length ≤ 3584) :
    (s.copyProgram p).LowMemoryIsReset font where
  font_eq := hs.font_eq
  canonical := wf_writeBytes hs.canonical progBase 0 p
  low a ha := (readByte_copyProgram_outside hs.canonical hp (.inl ha)).trans (hs.low a ha)

theorem hostCall_lowMemory {op : HostOp} {s t : State} {r : HostResult} (hs : s.LowMemoryIsReset font)
    (h : hostCall op s = .next (r, t)) : t.LowMemoryIsReset font := by
  cases op with
  | reset => cases h; exact ⟨hs.font_eq, rfl, fun a _ => by rw [resetOp_readByte, hs.font_eq]⟩
  | loadProgram p =>
    cases h
    obtain hsame | ⟨hp, hcopy⟩ := loadProgram_state s p
    · rw [hsame]; exact hs
    · rw [hcopy]; exact copyProgram_lowMemory hs hp
  | step rnd =>
    obtain ⟨q, hq, _, rfl⟩ := hostCall_step_cases h
    exact (stepResult_lowMemory (s := { s with draws := [rnd] }) (hs.congr rfl rfl) hq).congr rfl rfl
  | tickTimers =>
    cases h
    obtain hsame | htick := tickTimers_state s
    · rw [hsame]; exact hs
    · rw [htick]; exact hs.congr rfl rfl
  | setKeys | display | isFaulted | cycleCount => cases h; exact hs.congr rfl rfl

end

/-- Settles O24: a load starts at `0x200`, a block store that would reach below it stops, and reset starts anew. -/
theorem lowMemoryKeepsItsResetContents : Obligations.LowMemoryKeepsItsResetContents := by
  intro ops s t rs hwf hlow h
  have ht : t.LowMemoryIsReset s.params.font := hostRun_keeps hostCall_lowMemory ⟨rfl, hwf, hlow⟩ h
  exact ht.low

/-! ### The tick -/

/-- The decrement takes ST across the threshold when ST is one above it. -/
theorem tickCue_eq_normal_iff {s : State} : s.tickCue = .normal ↔
    s.bootCuePending = false ∧ s.cueLatched = false ∧ s.st.toNat = s.params.cueThreshold.toNat + 1 := by
  have hcross : s.params.cueThreshold.toNat < s.st.toNat ∧ (decTimer s.st).toNat ≤ s.params.cueThreshold.toNat ↔
      s.st.toNat = s.params.cueThreshold.toNat + 1 := by
    rw [decTimer_toNat]
    omega
  unfold State.tickCue Machine.tickCue
  rw [← hcross]
  split_ifs with hst hboot hnormal
  · simp [show s.st.toNat = 0 by rw [hst]; rfl]
  · simp [hboot]
  · simpa [hboot, and_assoc] using hnormal
  · simpa [hboot, and_assoc] using hnormal

theorem sameBut_tickRunning (s : State) :
    SameBut [.dt, .st, .bootCuePending, .cueLatched, .toneCue] s s.tickRunning := by
  intro p hp
  cases p <;> simp_all [Part.Same, State.readByte, State.getV, State.stackAt, State.keyAt]

theorem tickTimers_running {s : State} (hf : s.faulted = false) : s.tickTimers = (s.tickCue, s.tickRunning) := by
  simp [State.tickTimers, hf]

/-- Settles O55: the two cues are the two conditions on the state before the decrement. -/
theorem tickFollowsTheTimerRule : Obligations.TickFollowsTheTimerRule := by
  intro s hf
  refine ⟨s.tickCue, s.tickRunning, by rw [hostCall, tickTimers_running hf], decTimer_toNat s.dt, decTimer_toNat s.st,
    rfl, tickCue_eq_fatal_iff, tickCue_eq_normal_iff, ?_, ?_, sameBut_tickRunning s⟩
  · rw [State.tickRunning_bootCuePending, Bool.and_eq_true, decide_eq_true_iff]
  · rw [State.tickRunning_cueLatched, Bool.and_eq_true, Bool.or_eq_true, decide_eq_true_iff, decide_eq_true_iff,
      State.tickRunning_st, and_comm]

/-! ### At most one cue -/

/-- No cue can come before ST has a new start: no boot cue is pending, and a countdown that is on has had its cue. -/
structure State.CueSpent (s : State) : Prop where
  noBoot : s.bootCuePending = false
  latched : s.st ≠ 0 → s.cueLatched = true

theorem State.CueSpent.congr {s t : State} (hs : s.CueSpent) (hst : t.st = s.st)
    (hboot : t.bootCuePending = s.bootCuePending) (hlatch : t.cueLatched = s.cueLatched) : t.CueSpent where
  noBoot := hboot.trans hs.noBoot
  latched h := hlatch.trans (hs.latched (hst ▸ h))

theorem tickCue_of_spent {s : State} (hs : s.CueSpent) : s.tickCue = .none := by
  have hfatal : s.tickCue ≠ .fatal := fun h => by
    have := (tickCue_eq_fatal_iff.mp h).2
    rw [hs.noBoot] at this
    cases this
  have hnormal : s.tickCue ≠ .normal := fun h => by
    obtain ⟨_, hlatch, hst⟩ := tickCue_eq_normal_iff.mp h
    have h0 : s.st ≠ 0 := fun h0 => by
      rw [h0] at hst
      exact absurd hst (Nat.succ_ne_zero _).symm
    rw [hs.latched h0] at hlatch
    cases hlatch
  cases h : s.tickCue with
  | none => rfl
  | normal => exact absurd h hnormal
  | fatal => exact absurd h hfatal

/-- A tick leaves the cue spent where it was spent before, and where the tick emits it. -/
theorem tickRunning_spent {s : State} (hs : s.CueSpent ∨ s.tickCue ≠ .none) : s.tickRunning.CueSpent where
  noBoot := by
    rw [State.tickRunning_bootCuePending, Bool.and_eq_false_iff]
    obtain hs | hcue := hs
    · exact .inl hs.noBoot
    · cases h : s.tickCue with
      | none => exact absurd h hcue
      | normal => exact .inl (tickCue_eq_normal_iff.mp h).1
      | fatal => exact .inr rfl
  latched hst := by
    have hrunning : s.st ≠ 0 := fun h0 => hst (by rw [State.tickRunning_st, h0, decTimer_zero])
    rw [State.tickRunning_cueLatched, Bool.and_eq_true, Bool.or_eq_true, decide_eq_true_iff, decide_eq_true_iff]
    exact ⟨hs.imp (fun hs => hs.latched hrunning) id, hst⟩

theorem exec_spent {i : Instr} {s t : State} (hs : s.CueSpent) (hi : ∀ x, i ≠ .ldSt x) (h : exec i s = .next t) :
    t.CueSpent :=
  hs.congr (exec_keeps_soundRun (p := .st) (by decide) hi h) (exec_keeps_soundRun (p := .bootCuePending) (by decide) hi h)
    (exec_keeps_soundRun (p := .cueLatched) (by decide) hi h)

theorem stepResult_spent {s : State} {r : StepResult} (hs : s.CueSpent) (hst : ¬s.ExecutesLdSt)
    (h : s.stepResult = .next r) : r.state.CueSpent := by
  refine stepResult_keeps hs (fun _ => hs.congr rfl rfl rfl) (fun _ _ hu => hu.congr rfl rfl rfl)
    (fun _ hu => hu.congr rfl rfl rfl) (fun i t hf hb hd hx => ?_) h
  have hi : ∀ x, i ≠ .ldSt x := fun x hix => hst ⟨hf, State.fetchOutOfBounds_eq_false.mp hb, x, hix ▸ hd⟩
  exact exec_spent (s := s.advancePc) (hs.congr rfl rfl rfl) hi hx

theorem hostCall_spent {op : HostOp} {s t : State} {r : HostResult} (hs : s.CueSpent)
    (hkeep : keepsSoundRun op s = true) (h : hostCall op s = .next (r, t)) : t.CueSpent := by
  cases op with
  | reset => cases hkeep
  | loadProgram p =>
    cases h
    obtain hsame | ⟨_, hcopy⟩ := loadProgram_state s p
    · rw [hsame]; exact hs
    · rw [hcopy]; exact hs.congr rfl rfl rfl
  | step rnd =>
    obtain ⟨q, hq, _, rfl⟩ := hostCall_step_cases h
    have hst : ¬({ s with draws := [rnd] } : State).ExecutesLdSt := (keepsSoundRun_step rnd s).mp hkeep
    exact (stepResult_spent (s := { s with draws := [rnd] }) (hs.congr rfl rfl rfl) hst hq).congr rfl rfl rfl
  | tickTimers =>
    cases h
    obtain hsame | htick := tickTimers_state s
    · rw [hsame]; exact hs
    · rw [htick]; exact tickRunning_spent (.inl hs)
  | setKeys | display | isFaulted | cycleCount => cases h; exact hs.congr rfl rfl rfl

/-- A call that returns a cue is a tick, and it finds the cue not spent and leaves it spent. -/
theorem hostCall_of_isCue {op : HostOp} {s t : State} {r : HostResult} (h : hostCall op s = .next (r, t))
    (hc : r.isCue = true) : ¬s.CueSpent ∧ t.CueSpent := by
  obtain rfl := hostCall_isCue h hc
  cases hf : s.faulted with
  | true =>
    rw [hostCall_tick_faulted hf] at h
    cases h
    cases hc
  | false =>
    rw [hostCall, tickTimers_running hf] at h
    cases h
    have hcue : s.tickCue ≠ .none := by simpa [HostResult.isCue_cue] using hc
    exact ⟨fun hs => hcue (tickCue_of_spent hs), tickRunning_spent (.inr hcue)⟩

/-- While the cue is spent, no call returns one. -/
theorem hostRun_no_cue_of_spent {ops : List HostOp} {s t : State} {rs : List HostResult} (hs : s.CueSpent)
    (hkeep : runKeepsSoundRun ops s = true) (h : hostRun ops s = .next (rs, t)) : rs.filter HostResult.isCue = [] := by
  induction ops generalizing s rs with
  | nil => cases h; rfl
  | cons op ops ih =>
    obtain ⟨r, u, rs', hop, hrest, rfl⟩ := hostRun_cons_eq_next.mp h
    obtain ⟨hkop, hkrest⟩ := (runKeepsSoundRun_cons hop).mp hkeep
    have hno : ¬r.isCue = true := fun hc => (hostCall_of_isCue hop hc).1 hs
    rw [List.filter_cons_of_neg hno, ih (hostCall_spent hs hkop hop) hkrest hrest]

/-- Settles O56: the first cue leaves the cue spent, and from there no call returns one. -/
theorem atMostOneCuePerRun : Obligations.AtMostOneCuePerRun := by
  intro ops
  induction ops with
  | nil => intro s t rs _ h; cases h; exact Nat.zero_le 1
  | cons op ops ih =>
    intro s t rs hkeep h
    obtain ⟨r, u, rs', hop, hrest, rfl⟩ := hostRun_cons_eq_next.mp h
    obtain ⟨_, hkrest⟩ := (runKeepsSoundRun_cons hop).mp hkeep
    cases hc : r.isCue with
    | true =>
      rw [List.filter_cons_of_pos hc, hostRun_no_cue_of_spent (hostCall_of_isCue hop hc).2 hkrest hrest]
      exact Nat.le_refl 1
    | false =>
      rw [List.filter_cons_of_neg (by simp [hc])]
      exact ih u t rs' hkrest hrest

end Sys2Proof.Machine
end

section
/-! SUPPORT. Control flow beyond the first jumps and skips (41_control_flow.md): the offset jump, the return after a call and
the stack ring (10_state.md R19). -/

namespace Sys2Proof.Machine

/-- Settles O29: the zero-extended NNN and V0 are added in 16 bits. -/
theorem jumpWithOffsetAddsV0 : Obligations.JumpWithOffsetAddsV0 := by
  intro nnn s
  refine ⟨_, exec_jpV0 nnn s, ?_, sameBut_setPc s _⟩
  rw [State.setPc_pc, BitVec.toNat_add, zextAddr_toNat, BitVec.toNat_setWidth_of_le (by decide)]

/-- Settles O33: both instructions are one skip, on the equality and on its negation. -/
theorem skipsOnRegisters : Obligations.SkipsOnRegisters := by
  intro x y s
  refine ⟨_, _, exec_seReg x y s, exec_sneReg x y s, ?_, ?_, sameBut_skipIf s _, sameBut_skipIf s _⟩
  · simp only [State.skipIf_pc_toNat, beq_iff_eq]
  · simp only [State.skipIf_pc_toNat, bne_iff_ne]

theorem State.dropTop_setPc_sp (s : State) (w : Word) : (s.setPc w).dropTop.sp = s.dropTop.sp := rfl

theorem sameBut_push_setPc (s : State) (v w : Word) : SameBut [.stack, .sp, .pc] s ((s.push v).setPc w) :=
  (sameBut_push s v).append (sameBut_setPc _ w)

theorem sameBut_dropTop_setPc (s : State) (w : Word) : SameBut [.sp, .pc] s (s.dropTop.setPc w) :=
  (sameBut_dropTop s).append (sameBut_setPc _ w)

/-- Settles O30: the pop finds the pushed PC at the SP from before the push, and SP and PC are put back. -/
theorem retAfterCallReturns : Obligations.RetAfterCallReturns := by
  intro nnn s
  obtain ⟨hsp, htop⟩ := s.pop_push s.pc
  have hret : exec .ret ((s.push s.pc).setPc (zextAddr nnn)) =
      .next (((s.push s.pc).setPc (zextAddr nnn)).dropTop.setPc s.pc) := by
    rw [exec_ret, State.stackAt_setPc, State.dropTop_setPc_sp, htop]
  refine ⟨_, _, exec_call nnn s, hret, rfl, hsp, fun p hp => ?_⟩
  have hframe := (sameBut_push_setPc s s.pc (zextAddr nnn)).append (sameBut_dropTop_setPc _ s.pc)
  cases p with
  | pc => rfl
  | sp => exact hsp
  | stack => exact absurd (List.mem_singleton.mpr rfl) hp
  | _ => exact hframe _ (by simp)

/-! ### The stack ring -/

/-- The depths 2 to 16 of the ring, counted from the SP after a push, are not the slot the push wrote. -/
theorem ring_slot_ne {sp : Nibble} {n : Nat} (h1 : 1 ≤ n) (h15 : n ≤ 15) :
    sp + 1 - BitVec.ofNat 4 (n + 1) = sp - BitVec.ofNat 4 n ∧ sp - BitVec.ofNat 4 n ≠ sp := by
  have hlt := sp.isLt
  refine ⟨?_, fun h => ?_⟩
  · rw [BitVec.ofNat_add]
    exact add_sub_add_right_eq_sub sp (BitVec.ofNat 4 n) 1
  · have hval := congrArg BitVec.toNat h
    rw [BitVec.toNat_sub, BitVec.toNat_ofNat] at hval
    omega

theorem sp_foldl_push (s : State) (ws : List Word) :
    (ws.foldl State.push s).sp = s.sp + BitVec.ofNat 4 ws.length := by
  induction ws using List.reverseRecOn with
  | nil => exact (BitVec.add_zero s.sp).symm
  | append_singleton ws w ih =>
    rw [List.foldl_append, List.foldl_cons, List.foldl_nil, State.push_sp, ih, List.length_append, BitVec.ofNat_add,
      BitVec.add_assoc]
    rfl

theorem stackAt_foldl_push (s : State) (ws : List Word) {n : Nat} (hlen : n ≤ ws.length) (h1 : 1 ≤ n) (h16 : n ≤ 16) :
    ws[ws.length - n]? = some ((ws.foldl State.push s).stackAt ((ws.foldl State.push s).sp - BitVec.ofNat 4 n)) := by
  induction ws using List.reverseRecOn generalizing n with
  | nil => exact absurd hlen (Nat.not_le_of_lt h1)
  | append_singleton ws w ih =>
    obtain ⟨m, rfl⟩ : ∃ m, n = m + 1 := ⟨n - 1, by omega⟩
    rw [List.length_append, List.length_singleton] at hlen ⊢
    rw [List.foldl_append, List.foldl_cons, List.foldl_nil, State.push_sp, State.stackAt_push, Nat.add_sub_add_right]
    cases m with
    | zero =>
      rw [if_pos (show _ - BitVec.ofNat 4 (0 + 1) = _ from BitVec.add_sub_cancel _ 1)]
      simp
    | succ m =>
      obtain ⟨hslot, hne⟩ := ring_slot_ne (sp := (ws.foldl State.push s).sp) (Nat.le_add_left 1 m) (by omega)
      rw [hslot, if_neg hne, List.getElem?_append_left (by omega)]
      exact ih (by omega) (by omega) (by omega)

/-- Settles O31: a push writes one slot, and the fifteen slots below it are reached again only after sixteen pushes. -/
theorem stackRingKeepsTheLastSixteen : Obligations.StackRingKeepsTheLastSixteen := fun s ws _ hlen h1 h16 =>
  ⟨sp_foldl_push s ws, stackAt_foldl_push s ws hlen h1 h16⟩

end Sys2Proof.Machine
end

section
/-! SUPPORT. The ALU (42_alu.md): the results and the flags as numbers. -/

namespace Sys2Proof.Machine

/-- Settles O35: one register write of an 8-bit sum. -/
theorem addImmediateWritesNoFlag : Obligations.AddImmediateWritesNoFlag := by
  intro x kk s
  refine ⟨_, exec_addImm x kk s, ?_, regsSameBut_setV s x _, sameBut_setV s x _⟩
  rw [State.getV_setV_self, BitVec.toNat_add]

/-- Settles O36: one register write each, of the two bytes combined bit by bit. -/
theorem logicWritesNoFlag : Obligations.LogicWritesNoFlag := by
  intro x y s
  refine ⟨_, _, _, exec_orReg x y s, exec_andReg x y s, exec_xorReg x y s, fun n => ?_, fun n => ?_, fun n => ?_,
    regsSameBut_setV s x _, regsSameBut_setV s x _, regsSameBut_setV s x _,
    sameBut_setV s x _, sameBut_setV s x _, sameBut_setV s x _⟩
  · rw [State.getV_setV_self, BitVec.getLsbD_or]
  · rw [State.getV_setV_self, BitVec.getLsbD_and]
  · rw [State.getV_setV_self, BitVec.getLsbD_xor]

/-! ### A result and its flag -/

section
variable (s : State) (x : Reg) (b : Byte) (f : Bool)

theorem setResultAndFlag_result {m : Nat} (hb : b.toNat = m) :
    x ≠ vf → ((s.setResultAndFlag x b f).getV x).toNat = m := fun hx => by
  rw [s.getV_setResultAndFlag_of_ne hx, hb]

theorem setResultAndFlag_flag : ((s.setResultAndFlag x b f).getV vf).toNat = if f then 1 else 0 := by
  rw [s.getV_setResultAndFlag_vf, flagByte_toNat]

end

theorem carryOut_eq_true {a b : Byte} : carryOut a b = true ↔ 255 < a.toNat + b.toNat := decide_eq_true_iff

theorem notBorrow_eq_true {a b : Byte} : notBorrow a b = true ↔ a.toNat ≥ b.toNat := decide_eq_true_iff

theorem toNat_sub_byte (a b : Byte) : (a - b).toNat = (a.toNat + 256 - b.toNat) % 256 := by
  have hb := b.isLt
  rw [BitVec.toNat_sub]
  omega

/-- Settles O37: the sum and the carry are of the two registers as they stood before either write. -/
theorem addWithCarry : Obligations.AddWithCarry := by
  intro x y s
  refine ⟨_, exec_addReg x y s, setResultAndFlag_result s x _ _ (BitVec.toNat_add _ _), ?_,
    regsSameBut_setResultAndFlag s x _ _, sameBut_setResultAndFlag s x _ _⟩
  simp only [setResultAndFlag_flag, carryOut_eq_true]

/-- Settles O38: the two differences and the flags are of the two registers as they stood before either write. -/
theorem subtractWithNotBorrow : Obligations.SubtractWithNotBorrow := by
  intro x y s
  refine ⟨_, _, exec_sub x y s, exec_subn x y s, setResultAndFlag_result s x _ _ (toNat_sub_byte _ _), ?_,
    setResultAndFlag_result s x _ _ (toNat_sub_byte _ _), ?_,
    regsSameBut_setResultAndFlag s x _ _, regsSameBut_setResultAndFlag s x _ _,
    sameBut_setResultAndFlag s x _ _, sameBut_setResultAndFlag s x _ _⟩
  · simp only [setResultAndFlag_flag, notBorrow_eq_true]
  · simp only [setResultAndFlag_flag, notBorrow_eq_true]

theorem State.shiftOperand_eq (s : State) (x y : Reg) :
    s.shiftOperand x y = if s.params.shiftSource = .vx then s.getV x else s.getV y := by
  cases h : s.params.shiftSource <;> simp [State.shiftOperand, h]

theorem shiftedOutLow_toNat (a : Byte) : (if shiftedOutLow a then 1 else 0) = a.toNat % 2 := by
  simp only [shiftedOutLow, BitVec.getLsbD, Nat.testBit_zero, decide_eq_true_eq]
  split <;> omega

theorem shiftedOutHigh_toNat (a : Byte) : (if shiftedOutHigh a then 1 else 0) = a.toNat / 128 := by
  have ha := a.isLt
  simp only [shiftedOutHigh, BitVec.getLsbD, Nat.testBit_eq_decide_div_mod_eq, decide_eq_true_eq]
  split <;> omega

theorem toNat_shiftRight_one (a : Byte) : (a >>> 1).toNat = a.toNat / 2 := by
  rw [BitVec.toNat_ushiftRight, Nat.shiftRight_eq_div_pow, pow_one]

theorem toNat_shiftLeft_one (a : Byte) : (a <<< 1).toNat = a.toNat * 2 % 256 := by
  rw [BitVec.toNat_shiftLeft, Nat.shiftLeft_eq, pow_one]

/-- Settles O39: the source is chosen by the parameter, and the flag is its lowest or highest bit. -/
theorem shiftsByOne : Obligations.ShiftsByOne := by
  intro x y s src hsrc
  rw [← State.shiftOperand_eq] at hsrc
  subst hsrc
  refine ⟨_, _, exec_shr x y s, exec_shl x y s, setResultAndFlag_result s x _ _ (toNat_shiftRight_one _), ?_,
    setResultAndFlag_result s x _ _ (toNat_shiftLeft_one _), ?_,
    regsSameBut_setResultAndFlag s x _ _, regsSameBut_setResultAndFlag s x _ _,
    sameBut_setResultAndFlag s x _ _, sameBut_setResultAndFlag s x _ _⟩
  · rw [setResultAndFlag_flag, shiftedOutLow_toNat]
  · rw [setResultAndFlag_flag, shiftedOutHigh_toNat]

end Sys2Proof.Machine
end

section
/-! SUPPORT. Address register, font and memory blocks (43_index_memory.md), and the random byte (44_random.md). -/

namespace Sys2Proof.Machine

/-- Settles O41: one write of I, of a 16-bit sum. -/
theorem addToIndexWritesNoFlag : Obligations.AddToIndexWritesNoFlag := by
  intro x s
  refine ⟨_, exec_addI x s, ?_, sameBut_setI s _⟩
  rw [State.setI_i, BitVec.toNat_add, BitVec.toNat_setWidth_of_le (by decide)]

/-- A value up to 15 is an operand of one hex digit. -/
theorem hexOperand_of_le {b : Byte} (h : b.toNat ≤ 15) : ∃ d : Fin 16, hexOperand b = some d ∧ d.val = b.toNat :=
  ⟨⟨b.toNat, Nat.lt_succ_of_le h⟩, hexOperand_eq_some.mpr rfl, rfl⟩

/-- Settles O42: a digit's glyph stands at five times the digit. -/
theorem fontPointerOfDigit : Obligations.FontPointerOfDigit := by
  intro x s
  refine ⟨fun hle => ?_, fun hgt => exec_eq_fault.mpr ⟨.fontDigit, if_pos hgt, rfl⟩⟩
  obtain ⟨d, hd, hval⟩ := hexOperand_of_le hle
  exact ⟨_, exec_ldF_eq_next.mpr ⟨d, hd, rfl⟩, hval ▸ glyphAddr_toNat d, sameBut_setI s _⟩

/-! ### Block stores -/

section
variable {s : State} {bs : List Byte} (hwf : s.mem.wf s.params.font = true)
include hwf

theorem readByte_storeBytes_inside (hlen : bs.length ≤ 4096) {k : Nat} (hk : k < bs.length) :
    (s.storeBytes bs).readByte (ea s.i k) = bs[k] := by
  have hread := read_writeBytes_inside hwf s.i 0 bs k hk (by omega)
  rwa [Nat.zero_add] at hread

theorem bytesSameOutside_storeBytes : BytesSameOutside s.i bs.length s (s.storeBytes bs) := by
  intro a ha
  refine read_writeBytes_outside hwf s.i 0 bs a fun k hk => ?_
  rw [Nat.zero_add]
  exact ha k hk

theorem readByte_storeBytes_reg {x r : Reg} (hr : r ≤ x) :
    (s.storeBytes ((regsUpTo x).map s.getV)).readByte (ea s.i r.val) = s.getV r := by
  have hx := x.isLt
  have hlen : ((regsUpTo x).map s.getV).length = x.val + 1 := by rw [List.length_map, regsUpTo_length]
  have hk : r.val < ((regsUpTo x).map s.getV).length := by rw [hlen]; exact Nat.lt_succ_of_le hr
  rw [readByte_storeBytes_inside hwf (by omega) hk, ← Option.some_inj, ← List.getElem?_eq_getElem hk,
    List.getElem?_map, regsUpTo_getElem x r hr]
  rfl

end

/-- Settles O43: the digits are a block store of three bytes; the stop is before it. -/
theorem bcdStoresThreeDigits : Obligations.BcdStoresThreeDigits := by
  intro x s hwf
  refine ⟨wordFXKK_toNat x 0x33, fun hhigh => ?_, fun hlow => ?_⟩
  · have hdigit : ∀ k (hk : k < 3), (s.storeBytes (bcdDigits (s.getV x))).readByte (ea s.i k) = (bcdDigits (s.getV x))[k] :=
      fun k hk => readByte_storeBytes_inside (bs := bcdDigits (s.getV x)) hwf (show 3 ≤ 4096 by decide) hk
    refine ⟨_, exec_bcd_eq_next.mpr ⟨storesLow_eq_false.mpr hhigh, rfl⟩, ?_, ?_, ?_,
      bytesSameOutside_storeBytes (bs := bcdDigits (s.getV x)) hwf, sameBut_storeBytes s _⟩
    · rw [hdigit 0 (by decide)]; exact BitVec.toNat_udiv
    · rw [hdigit 1 (by decide)]; exact BitVec.toNat_umod.trans (congrArg (· % 10) BitVec.toNat_udiv)
    · rw [hdigit 2 (by decide)]; exact BitVec.toNat_umod
  · exact exec_eq_fault.mpr ⟨.lowStore, if_pos (storesLow_eq_true.mpr hlow), rfl⟩

/-- Settles O44: the registers are a block store of X + 1 bytes, and I moves after it; the stop is before it. -/
theorem storeRegistersToBlock : Obligations.StoreRegistersToBlock := by
  intro x s hwf
  refine ⟨wordFXKK_toNat x 0x55, fun hhigh => ?_, fun ⟨k, hk, hlow⟩ => ?_⟩
  · have hno : storesLow s.i (x.val + 1) = false := storesLow_eq_false.mpr fun k hk => hhigh k (Nat.le_of_lt_succ hk)
    have hlen : ((regsUpTo x).map s.getV).length = x.val + 1 := by rw [List.length_map, regsUpTo_length]
    refine ⟨_, exec_stRegs_eq_next.mpr ⟨hno, rfl⟩, fun r hr => readByte_storeBytes_reg hwf hr,
      State.advanceI_i_toNat _ x, ?_, (sameBut_storeBytes s _).append (sameBut_advanceI _ x)⟩
    exact hlen ▸ bytesSameOutside_storeBytes hwf
  · exact exec_eq_fault.mpr ⟨.lowStore, if_pos (storesLow_eq_true.mpr ⟨k, Nat.lt_succ_of_le hk, hlow⟩), rfl⟩

/-- Settles O46: the load reads, at the I of the store, the bytes that the store left there. -/
theorem storeThenLoadRestoresRegisters : Obligations.StoreThenLoadRestoresRegisters := by
  intro x s t u hwf h hmem hi
  obtain ⟨_, rfl⟩ := exec_stRegs_eq_next.mp h
  refine ⟨_, exec_ldRegs x u, fun r hr => ?_, State.advanceI_i_toNat _ x, ?_⟩
  · rw [State.getV_advanceI, State.getV_loadRegs, if_pos ((mem_regsUpTo x r).mpr hr), State.dataByte, hi, hmem]
    exact readByte_storeBytes_reg hwf hr
  · rw [State.advanceI_eq, State.setI_i, State.loadRegs_i, hi]
    rfl

/-! ### The random byte -/

theorem State.consumeDraw_of_cons {s : State} {d : Byte} {ds : List Byte} (h : s.draws = d :: ds) :
    s.consumeDraw.draws = ds ∧ s.consumeDraw.drawIndex = s.drawIndex := by
  simp [State.consumeDraw_eq, h]

theorem State.consumeDraw_of_nil {s : State} (h : s.draws = []) :
    s.consumeDraw.draws = [] ∧ s.consumeDraw.drawIndex = s.drawIndex + 1 := by
  simp [State.consumeDraw_eq, h]

/-- Settles O47: the oldest draw is taken, and a step holds the one draw it was given. -/
theorem randomByteUnderMask : Obligations.RandomByteUnderMask := by
  intro x kk s
  refine ⟨⟨_, exec_rnd x kk s, State.getV_setV_self _ x _, fun d ds hd => ?_, State.consumeDraw_of_nil,
    regsSameBut_rnd s x _, ((sameBut_consumeDraw s).append (sameBut_setV _ x _)).mono (by simp)⟩,
    fun rnd hf hpc hd => ?_⟩
  · exact ⟨State.nextDraw_injected s d ds hd, State.consumeDraw_of_cons hd⟩
  · have hr := stepResult_of_exec (s := { s with draws := [rnd] }) hf (State.fetchOutOfBounds_eq_false.mpr hpc) hd
      (exec_rnd x kk _)
    exact ⟨_, State.stepWith_eq_next.mpr ⟨_, hr, rfl⟩, State.getV_setV_self _ x _⟩

end Sys2Proof.Machine
end

section
/-! SUPPORT. The draw (45_display.md R93) on the state: which pixels a sprite covers, and what VF says. -/

namespace Sys2Proof.Machine

/-- A sprite bit 1 lands on the pixel, with rows and columns as numbers. -/
theorem spriteCovers_iff {byteAt : Nat → Byte} {x0 y0 : Byte} {n : Nat} {row : Fin 32} {col : Fin 64} :
    spriteCovers byteAt x0 y0 n row col = true ↔ ∃ r j, r < n ∧ j < 8 ∧ row.val = (y0.toNat + r) % 32 ∧
      col.val = (x0.toNat + j) % 64 ∧ (byteAt r).getLsbD (7 - j) = true := by
  simp only [spriteCovers, List.any_eq_true, List.mem_range, Bool.and_eq_true, decide_eq_true_iff, Fin.ext_iff,
    spriteRow, spriteCol, Fin.val_ofNat]
  constructor
  · rintro ⟨r, hr, j, hj, ⟨hrow, hcol⟩, hbit⟩
    exact ⟨r, j, hr, hj, hrow, hcol, hbit⟩
  · rintro ⟨r, j, hr, hj, hrow, hcol, hbit⟩
    exact ⟨r, hr, j, hj, ⟨hrow, hcol⟩, hbit⟩

section
variable {s : State} {x0 y0 : Byte} {n : Nat} (hn : n ≤ 32)
include hn

theorem pixelAt_blit (row : Fin 32) (col : Fin 64) : pixelAt (s.blit x0 y0 n).disp row col =
    (pixelAt s.disp row col ^^ spriteCovers s.dataByte x0 y0 n row col) := (s.blit_spec x0 y0 n hn).1 row col

/-- The collision: some covered pixel was 1. -/
theorem hit_blit : (s.blit x0 y0 n).hit = true ↔
    ∃ row col, pixelAt s.disp row col = true ∧ spriteCovers s.dataByte x0 y0 n row col = true := by
  rw [(s.blit_spec x0 y0 n hn).2]
  simp only [spriteCovers, List.any_eq_true, List.mem_range, Bool.and_eq_true, decide_eq_true_iff]
  constructor
  · rintro ⟨r, hr, j, hj, hbit, hpixel⟩
    exact ⟨_, _, hpixel, r, hr, j, hj, ⟨rfl, rfl⟩, hbit⟩
  · rintro ⟨_, _, hpixel, r, hr, j, hj, ⟨rfl, rfl⟩, hbit⟩
    exact ⟨r, hr, j, hj, hbit, hpixel⟩

theorem pixelAt_blit_ne_iff {row : Fin 32} {col : Fin 64} :
    pixelAt (s.blit x0 y0 n).disp row col ≠ pixelAt s.disp row col ↔
      spriteCovers s.dataByte x0 y0 n row col = true := by
  rw [pixelAt_blit hn]
  cases pixelAt s.disp row col <;> simp

theorem pixelAt_blit_cleared_iff {row : Fin 32} {col : Fin 64} :
    pixelAt s.disp row col = true ∧ pixelAt (s.blit x0 y0 n).disp row col = false ↔
      pixelAt s.disp row col = true ∧ spriteCovers s.dataByte x0 y0 n row col = true := by
  rw [pixelAt_blit hn]
  cases pixelAt s.disp row col <;> simp

end

/-- What the draw leaves, with the operands read before VF is written. -/
theorem exec_drw_of_ne {x y : Reg} {n : Nat} (hn : n ≠ 0) (s : State) : exec (.drw x y n) s =
    .next ((s.setDisp (s.blit (s.getV x) (s.getV y) n).disp).setV vf (flagByte (s.blit (s.getV x) (s.getV y) n).hit)) :=
  exec_drw_eq_next.mpr ⟨hn, rfl⟩

theorem flagByte_eq_zero {f : Bool} : flagByte f = 0 ↔ f = false := by cases f <;> simp [flagByte]

/-- Settles O49: a covered pixel is flipped once, and it was 1 exactly if it is cleared. -/
theorem drawXorsTheSprite : Obligations.DrawXorsTheSprite := by
  intro x y n s hn
  have hn32 : n ≤ 32 := by omega
  refine ⟨fun h0 => exec_eq_fault.mpr ⟨.spriteHeightZero, if_pos h0, rfl⟩, fun hne => ⟨_, exec_drw_of_ne hne s,
    fun row col => ?_, ?_, fun r hr => ?_, (sameBut_setDisp s _).append (sameBut_setV _ vf _) |>.mono (by simp)⟩⟩
  · exact (pixelAt_blit_ne_iff hn32).trans spriteCovers_iff
  · rw [State.getV_setV_self]
    cases hhit : (s.blit (s.getV x) (s.getV y) n).hit with
    | true =>
      obtain ⟨row, col, hcovered⟩ := (hit_blit hn32).mp hhit
      exact .inl ⟨rfl, row, col, (pixelAt_blit_cleared_iff hn32).mpr hcovered⟩
    | false =>
      refine .inr ⟨rfl, fun row col hone => Bool.of_not_eq_false fun hzero => ?_⟩
      have hcovered := (pixelAt_blit_cleared_iff hn32).mp ⟨hone, hzero⟩
      exact Bool.false_ne_true (hhit.symm.trans ((hit_blit hn32).mpr ⟨row, col, hcovered⟩))
  · exact regsSameBut_setV (s.setDisp _) vf _ r hr

/-- A sprite with a bit set covers some pixel. -/
theorem exists_covered {byteAt : Nat → Byte} {r n : Nat} (hr : r < n) (hbyte : byteAt r ≠ 0) (x0 y0 : Byte) :
    ∃ row col, spriteCovers byteAt x0 y0 n row col = true := by
  obtain ⟨k, hk, hbit⟩ : ∃ k < 8, (byteAt r).getLsbD k = true := by
    by_contra hnone
    push Not at hnone
    refine hbyte (BitVec.eq_of_getLsbD_eq fun k hk => ?_)
    rw [Bool.eq_false_iff.mpr (hnone k hk)]
    exact BitVec.getLsbD_zero.symm
  refine ⟨spriteRow y0 r, spriteCol x0 (7 - k), spriteCovers_iff.mpr ⟨r, 7 - k, hr, by omega, rfl, rfl, ?_⟩⟩
  rwa [show 7 - (7 - k) = k by omega]

/-- Settles O50: the second draw covers the pixels of the first, which flips them back; from a blank display they are then
the pixels that are 1. -/
theorem drawTwiceRestoresTheDisplay : Obligations.DrawTwiceRestoresTheDisplay := by
  intro x y n s t hn h hx hy
  have hn32 : n ≤ 32 := by omega
  obtain ⟨hne, ht⟩ := exec_drw_eq_next.mp h
  have hdisp : t.disp = (s.blit (s.getV x) (s.getV y) n).disp := by rw [ht]; rfl
  have hbytes : t.dataByte = s.dataByte := by rw [ht]; rfl
  have hvf : t.getV vf = flagByte (s.blit (s.getV x) (s.getV y) n).hit := by rw [ht, State.getV_setV_self]
  refine ⟨_, exec_drw_of_ne hne t, fun row col => ?_, fun hblank => ⟨?_, fun ⟨r, hr, hbyte⟩ => ?_⟩⟩
  · rw [State.setV_disp, State.setDisp_disp, pixelAt_blit hn32, hbytes, hx, hy, hdisp, pixelAt_blit hn32,
      Bool.xor_assoc, Bool.xor_self, Bool.xor_false]
  · rw [hvf, flagByte_eq_zero, ← Bool.not_eq_true, hit_blit hn32]
    rintro ⟨row, col, hone, _⟩
    exact Bool.false_ne_true ((hblank row col).symm.trans hone)
  · obtain ⟨row, col, hcovered⟩ := exists_covered (byteAt := s.dataByte) hr hbyte (s.getV x) (s.getV y)
    rw [State.getV_setV_self, flagByte_eq_one, hit_blit hn32, hbytes, hx, hy]
    refine ⟨row, col, ?_, hcovered⟩
    rw [hdisp, pixelAt_blit hn32, hblank, hcovered]
    rfl

end Sys2Proof.Machine
end

section
/-! SUPPORT. Keys and the sound timer (46_keys_timers.md): the key skips, the key wait and the write of ST. -/

namespace Sys2Proof.Machine

/-- Settles O51: a key number is an operand of one hex digit, and both instructions are one skip. -/
theorem skipsOnKey : Obligations.SkipsOnKey := by
  intro x s
  refine ⟨fun k hk => ?_, fun hgt => ⟨exec_eq_fault.mpr ⟨.keyIndex, if_pos hgt, rfl⟩,
    exec_eq_fault.mpr ⟨.keyIndex, if_pos hgt, rfl⟩⟩⟩
  have hop : hexOperand (s.getV x) = some k := hexOperand_eq_some.mpr hk
  refine ⟨_, _, exec_skp_eq_next.mpr ⟨k, hop, rfl⟩, exec_sknp_eq_next.mpr ⟨k, hop, rfl⟩, ?_, ?_,
    sameBut_skipIf s _, sameBut_skipIf s _⟩
  · rw [State.skipIf_pc_toNat]
  · simp only [State.skipIf_pc_toNat, Bool.not_eq_true']

/-- Settles O52: the lowest pressed key is one register write; without one, PC moves back by 2 modulo 65536. -/
theorem keyWaitTakesTheLowestKey : Obligations.KeyWaitTakesTheLowestKey := by
  intro x s
  refine ⟨fun k hk hlow => ?_, fun hnone => ?_⟩
  · refine ⟨_, exec_ldK_eq_next.mpr (.inl ⟨k, State.lowestKey_eq_some hk hlow, rfl⟩), ?_, regsSameBut_setV s x _,
      sameBut_setV s x _⟩
    rw [State.getV_setV_self, keyByte_toNat]
  · exact ⟨_, exec_ldK_eq_next.mpr (.inr ⟨State.lowestKey_eq_none.mpr hnone, rfl⟩), toNat_sub_two s.pc,
      sameBut_setPc s _⟩

/-- Settles O54: the write of ST is followed by the rule for the cue state, which keeps the latch unless 0 is written. -/
theorem soundTimerWriteEndsTheBootCue : Obligations.SoundTimerWriteEndsTheBootCue := by
  intro x s
  refine ⟨_, exec_ldSt x s, rfl, rfl, fun h0 => ?_, fun hne => ?_,
    (sameBut_setSt s _).append (sameBut_cueOnWrite _ _)⟩
  · rw [State.cueOnWrite_cueLatched, h0]
    exact Bool.and_false _
  · rw [State.cueOnWrite_cueLatched, decide_eq_true hne]
    exact Bool.and_true _

end Sys2Proof.Machine
end
